-- ==== Sys2Proof/Word.lean ====
section
/-! DEFINITION. The word types of the block: every register, latch and video-RAM cell is an unsigned byte, and a
bus line carries a level (00_scope R6, R7). -/
namespace Sys2Proof

/-- An unsigned 8-bit value (R7). -/
abbrev Byte := BitVec 8

/-- The electrical level of a line: `true` is 1 (high), `false` is 0 (low, asserted) (R6). -/
abbrev Level := Bool

/-- A level as a number, for the bit-level encodings of lines. -/
def Level.toNat (l : Level) : Nat := if l then 1 else 0

end Sys2Proof
end

