-- ==== Sys2Proof/Config.lean ====
section
/-! DEFINITION. The configuration record CFG of 00_scope R5: what an implementation fixes and the spec leaves OPEN,
and the free values (functions the spec does not give, or answers of external collaborators). A machine carries one
`Config` as a launch argument (log entry 1); nothing the machine does changes it. -/
namespace Sys2Proof

/-- The CPU pin record F-CPU (30_encoding R101). The control lines are booleans meaning "asserted" (R6). -/
structure CpuPins where
  /-- address bits 0–15 -/
  a : BitVec 16
  /-- the data byte -/
  d : Byte
  mreq : Bool
  iorq : Bool
  rd : Bool
  wr : Bool
  int : Bool
  nmi : Bool
  deriving DecidableEq, Repr, Inhabited

/-- The kind of a character cell (10_state R34). -/
inductive CellKind where
  | alpha
  | graphic
  | delim
  deriving DecidableEq, Repr, Inhabited

/-- `WIRE`: the decoder line that drives each of the six outputs (40_bus_decoder R145). -/
structure Wire where
  kbd : Fin 8
  tapeRd : Fin 8
  ds : Fin 8
  as : Fin 8
  tapeWr : Fin 8
  rw : Fin 8
  deriving DecidableEq, Repr

/-- Where the three bits of a field stand in a word of `width` bits: any three places, in any order. -/
structure Bits3 (width : Nat) where
  hi : Fin width
  mid : Fin width
  lo : Fin width
  deriving DecidableEq, Repr

/-- `CellLayout`: the bit positions inside the cell triplet (30_encoding R119). A place below 24 counts from bit 0 of
`C` (0 to 7), through `B` (8 to 15), to bit 7 of `A` (23); the kind is found from `B` alone (R118), and the character
code is `C` (R118); log entry 17. -/
structure CellLayout where
  /-- the three bits of `B` that the delimiter pattern is looked for in -/
  kind : Bits3 8
  /-- the pattern that marks a delimiter -/
  delimPattern : BitVec 3
  /-- the bit of `B` that is 1 in a graphic cell -/
  graphic : Fin 8
  /-- double width -/
  dw : Fin 24
  /-- double height -/
  dh : Fin 24
  /-- foreground colour -/
  fg : Bits3 24
  /-- a delimiter's background colour -/
  bg : Bits3 24
  /-- a delimiter's underline -/
  underline : Fin 24
  /-- a delimiter's insert -/
  insert : Fin 24
  /-- a delimiter's conceal -/
  conceal : Fin 24
  deriving DecidableEq, Repr

/-- The commands the spec gives an effect, by the opcode row of 30_encoding R107 that holds them. -/
inductive CommandGroup where
  /-- KRF and KRG, block transfer at MP -/
  | block
  /-- OCT, byte transfer at MP or AP -/
  | octet
  /-- IND, indirect register access -/
  | indirect
  /-- INY, vertical-pointer increment -/
  | nextRow
  deriving DecidableEq, Repr

/-- The class of a command opcode (30_encoding R107); an implemented opcode has a group of commands. -/
inductive CmdClass where
  | implemented (group : CommandGroup)
  | unimplemented
  | unrecognised
  deriving DecidableEq, Repr

/-- The OPEN parameters of R5 as plain data. `cmdClassAt`, `transcodeAt`, `ptrBlockAt` and `glyphAt` list the points
where the parameter differs from its reference instance (or, for glyphs, where the launch fixes the charset ROM). -/
structure Config where
  /-- `RATIO`, VDP ticks per system tick -/
  ratio : Nat
  /-- `TICKS_PER_LINE(312)` -/
  ticksPerLine312 : Nat
  /-- `TICKS_PER_LINE(262)` -/
  ticksPerLine262 : Nat
  /-- `HS_TICKS` -/
  hsTicks : Nat
  /-- `H_ACTIVE_START` -/
  hActiveStart : Nat
  /-- `TICKS_PER_CELL` -/
  ticksPerCell : Nat
  /-- `V_ACTIVE_START` -/
  vActiveStart : Nat
  /-- `CE_ADDR_BIT` -/
  ceAddrBit : Fin 16
  /-- `SEL_LO_BIT` -/
  selLoBit : Fin 16
  /-- `SEL_HI_BIT` -/
  selHiBit : Fin 16
  /-- `WIRE` -/
  wire : Wire
  /-- the port of the VDP address strobe, `P_AS` (R129) -/
  portAs : Byte
  /-- the port of the VDP data strobes, `P_DS` (R129) -/
  portDs : Byte
  /-- the tape port, `P_TAPE` (R129) -/
  portTape : Byte
  /-- the opcodes where `CmdClass` differs from the reference table (R107, U3; log entry 15) -/
  cmdClassAt : List (BitVec 4 × CmdClass)
  /-- points `((block, col, row), offset)` where `Transcode` differs from `Transcode_ref` (R72, R73) -/
  transcodeAt : List ((BitVec 2 × BitVec 6 × BitVec 5) × BitVec 13)
  /-- points `((rowreg, colreg), block)` where `PtrBlock` differs from `PtrBlock_ref` (R113) -/
  ptrBlockAt : List ((Byte × Byte) × BitVec 2)
  /-- points `((kind, code, slice), bits)` of the charset ROM the launch fixes (R238) -/
  glyphAt : List ((CellKind × Byte × Nat) × Byte)
  /-- `CellLayout` -/
  layout : CellLayout
  /-- `PIX_LSB_LEFT` -/
  pixLsbLeft : Bool
  /-- `TAPE_MAX` -/
  tapeMax : Nat
  /-- `RING_CAP` -/
  ringCap : Nat
  /-- `LONG_MIN` -/
  longMin : Nat
  /-- `LONG_MAX` -/
  longMax : Nat
  /-- `SHORT_MIN` -/
  shortMin : Nat
  /-- `SHORT_MAX` -/
  shortMax : Nat
  /-- `ERROR_DRAIN_N` -/
  errorDrainN : Nat
  /-- `TAPE_WDATA_BIT` -/
  tapeWdataBit : Fin 8
  /-- `INT_FROM_VS` -/
  intFromVs : Bool
  /-- the CPU collaborator's reset pin record (R53, R368) -/
  cpuResetPins : CpuPins
  deriving DecidableEq, Repr

/-- The constraints R5 puts on the numeric parameters and on the wiring. -/
def Config.Constraints (c : Config) : Prop :=
  1 ≤ c.ratio ∧
  c.hActiveStart + 40 * c.ticksPerCell ≤ c.ticksPerLine312 ∧
  c.hActiveStart + 40 * c.ticksPerCell ≤ c.ticksPerLine262 ∧
  0 < c.hsTicks ∧ c.hsTicks < c.ticksPerLine312 ∧ c.hsTicks < c.ticksPerLine262 ∧
  1 ≤ c.ticksPerCell ∧
  2 ≤ c.vActiveStart ∧ c.vActiveStart + 250 ≤ 262 ∧
  c.selLoBit ≠ c.selHiBit ∧ c.selLoBit ≠ c.ceAddrBit ∧ c.selHiBit ≠ c.ceAddrBit ∧
  [c.wire.kbd, c.wire.tapeRd, c.wire.ds, c.wire.as, c.wire.tapeWr, c.wire.rw].Nodup ∧
  42 ≤ c.tapeMax ∧ 5 ≤ c.ringCap ∧
  1 ≤ c.shortMin ∧ c.shortMin ≤ c.shortMax ∧ c.shortMax < c.longMin ∧ c.longMin ≤ c.longMax ∧
  1 ≤ c.errorDrainN

/-- FREE VALUE. The charset ROM, `GlyphSlice(kind, code, slice)`: the spec gives neither format nor content
(R238, D22, U18); log entry 16. -/
opaque Config.glyphSlice : CellKind → Byte → Nat → Byte

/-- FREE VALUE. `PALETTE[i]`, an RGBA value: not given (R121, D38, U19); log entry 16. R121 gives no width of an entry:
32 bits, four channels of 8, is the MODEL's choice (DESIGN CHOICE, log entry 28). -/
opaque Config.palette : Fin 8 → BitVec 32

/-- FREE VALUE. The pin record `CpuTick` returns when no record is queued: "any pin record may come back" (R312,
U35); log entry 5. -/
opaque Config.freeCpuTick : Nat → CpuPins → CpuPins

/-- FREE VALUE. The byte the main memory router answers when none is queued (R313, U35); log entry 5. -/
opaque Config.freeMemByte : Nat → BitVec 16 → Byte

/-- FREE VALUE. The keyboard's answer when none is queued (R314, U35); log entry 5. -/
opaque Config.freeKey : Nat → BitVec 16 → Byte

/-- FREE VALUE. Whether an installed debug hook asks to stop, when no answer is queued (R317); log entry 5. -/
opaque Config.freeHook : Nat → Bool

/-- FREE VALUE. The address byte pair on the pins in an idle script tick (R129 names only the control lines);
log entry 12. -/
opaque Config.idleAddr : Nat → BitVec 16

/-- FREE VALUE. The data byte on the pins in an idle script tick (R129); log entry 12. -/
opaque Config.idleData : Nat → Byte

end Sys2Proof
end

