-- ==== Sys2Proof/Syntax.lean ====
section
/-! DEFINITION. The operations of the block, one constructor of `Instr` per row of spec/opcode_table.json, and the
words a script is made of. An "instruction" here is an operation selected by pins, edges, the command byte, the
raster position, a pulse pattern or a host call (92 D2); a constructor's arguments are the operands its rule names
and the free bits of its encoding. -/
namespace Sys2Proof

/-- How long a script cycle lasts: `strobe` consecutive system ticks with the strobe, then `idle` idle ticks; both
are "one or more" in R129. -/
structure BusTiming where
  strobe : Nat
  idle : Nat
  deriving DecidableEq, Repr

/-- Every operation of the opcode table. -/
inductive Instr where
  -- 40_bus_decoder R147 to R152
  | bdIdle (idx : BitVec 3)
  | bdKbd
  | bdTapeRd
  | bdVdpDs
  | bdNc3
  | bdVdpAs
  | bdTapeWr
  | bdVdpRw
  | bdNc7
  -- 41_vdp_bus_interface R162, R163, R165, R166
  | vbAsFall (ad : Byte) (ds : Level)
  | vbDsFall (rw : Level)
  | vbRwFall (ad : Byte)
  | vbRwRise
  -- 42_vdp_commands; `inc` is parameter bit I, `p3` to `p0` and `p` are parameter bits with no function
  | krfW (inc : Bool)
  | krfR (inc : Bool)
  | krgW (inc : Bool)
  | krgR (inc : Bool)
  | unimplClr (p3 p1 p0 : Bool)
  | unimplKre (p : BitVec 4)
  | unimplKrv (p : BitVec 4)
  | octWMp (inc : Bool)
  | octWAp (inc : Bool)
  | octRMp (inc : Bool)
  | octRAp (inc : Bool)
  | unimplOct (p3 p2 p0 : Bool)
  | unimplKrc (p : BitVec 4)
  | unimplKrl (p : BitVec 4)
  | unimplExp (p : BitVec 4)
  | unimplCmp (p : BitVec 4)
  | indW (r : BitVec 3)
  | indR (r : BitVec 3)
  | unimplNop (p : BitVec 4)
  | unknownA (p : BitVec 4)
  | iny (p : BitVec 4)
  | unknownC (p : BitVec 4)
  | unimplMvb (p : BitVec 4)
  | unimplMvd (p : BitVec 4)
  | unimplMvt (p : BitVec 4)
  -- 43_vdp_raster; `k` is a text row, `c` a display column, `sl` a slice, `al` an active line
  | raTick
  | raServiceRow
  | raRowReload (k : Nat)
  | raQuadrant
  | raCell (c sl al : Nat)
  | raAdvance
  | raSync
  -- 44_tape_codec; `svc` is the service bus F-SVC
  | tpInsert (image : List Byte)
  | tpEject
  | tpTick (svc : BitVec 3) (d : Byte)
  | tpSync
  | tpBit0
  | tpBit1
  | tpErr
  | tpDrain
  | tpNotimpl
  | tpInert
  -- 45_system_tick and 70_reset_and_hazards; `nullSys` is the null system pointer of R318
  | sysTick
  | sysRun (n : Nat)
  | sysReset
  | hostFb (nullSys : Bool)
  | hostInsert (image : List Byte)
  | hostEject
  | hostReset
  -- 30_encoding R129, R130; one `BusTiming` per bus cycle of the expansion
  | out (port v : Byte) (t : BusTiming)
  | inp (port : Byte) (t : BusTiming)
  | idle (k : Nat)
  | wreg (n : BitVec 3) (v : Byte) (t1 t2 : BusTiming)
  | wregx (n : BitVec 3) (v : Byte) (t1 t2 : BusTiming)
  | rreg (n : BitVec 3) (t1 t2 : BusTiming)
  | cmd (c : Byte) (t1 t2 : BusTiming)
  | kout (b : Byte) (t : BusTiming)
  deriving DecidableEq, Repr

/-- The operations to which the spec gives no bits: a script names them by their mnemonic (R128). -/
inductive NamedOp where
  | raTick | raServiceRow | raRowReload | raQuadrant | raCell | raAdvance | raSync
  | tpInsert | tpEject | tpTick | tpSync | tpBit0 | tpBit1 | tpErr | tpDrain | tpNotimpl | tpInert
  | sysTick | sysRun | sysReset | hostFb | hostInsert | hostEject | hostReset
  | out | inp | idle | wreg | wregx | rreg | cmd | kout
  deriving DecidableEq, Repr

/-- The format a script word is read in: F-BD, F-EDGE of one of the three lines, F-CMD (R100), or a name. -/
inductive Format where
  | bd
  | edgeAs
  | edgeDs
  | edgeRw
  | cmd
  | named (op : NamedOp)
  deriving DecidableEq, Repr

/-- One word of a script: a format, and the numbers in it (the encoded bits first, then the operands). Which format
a word is in is not in its bits: the formats overlap (log entry 7). -/
structure OpWord where
  format : Format
  args : List Nat
  deriving DecidableEq, Repr

end Sys2Proof
end

