-- ==== Sys2Proof/WellFormed.lean ====
section
/-! DEFINITION. Which operations are well formed: the operand ranges the rules give. -/
namespace Sys2Proof

/-- "one or more consecutive system ticks", then "at least one system tick" idle (R129). -/
def BusTiming.wf (t : BusTiming) : Bool := 1 ≤ t.strobe && 1 ≤ t.idle

/-- The text rows of the display, `k` in 1..24 (R228). -/
def textRow (k : Nat) : Bool := 1 ≤ k && k ≤ 24

/-- The operands of a cell render: `c` in 0..39, `s` in 0..9, `al` in 10..249 (R236). -/
def cellInWindow (c sl al : Nat) : Bool := c < 40 && sl < 10 && 10 ≤ al && al < 250

/-- The operand ranges; operations whose operands are bits or bytes are always well formed. -/
def Instr.wf : Instr → Bool
  | .raRowReload k => textRow k
  | .raCell c sl al => cellInWindow c sl al
  | .out _ _ t => t.wf
  | .inp _ t => t.wf
  | .wreg _ _ t1 t2 => t1.wf && t2.wf
  | .wregx _ _ t1 t2 => t1.wf && t2.wf
  | .rreg _ t1 t2 => t1.wf && t2.wf
  | .cmd _ t1 t2 => t1.wf && t2.wf
  | .kout _ t => t.wf
  | .bdIdle _ | .bdKbd | .bdTapeRd | .bdVdpDs | .bdNc3 | .bdVdpAs | .bdTapeWr | .bdVdpRw | .bdNc7 => true
  | .vbAsFall _ _ | .vbDsFall _ | .vbRwFall _ | .vbRwRise => true
  | .krfW _ | .krfR _ | .krgW _ | .krgR _ | .octWMp _ | .octWAp _ | .octRMp _ | .octRAp _ => true
  | .indW _ | .indR _ | .iny _ | .unknownA _ | .unknownC _ => true
  | .unimplClr _ _ _ | .unimplOct _ _ _ => true
  | .unimplKre _ | .unimplKrv _ | .unimplKrc _ | .unimplKrl _ | .unimplExp _ | .unimplCmp _ => true
  | .unimplNop _ | .unimplMvb _ | .unimplMvd _ | .unimplMvt _ => true
  | .raTick | .raServiceRow | .raQuadrant | .raAdvance | .raSync => true
  | .tpInsert _ | .tpEject | .tpTick _ _ | .tpSync | .tpBit0 | .tpBit1 | .tpErr => true
  | .tpDrain | .tpNotimpl | .tpInert => true
  | .sysTick | .sysRun _ | .sysReset | .hostFb _ | .hostInsert _ | .hostEject | .hostReset => true
  | .idle _ => true

end Sys2Proof
end

