-- ==== Sys2Proof/Decode.lean ====
section
/-! DEFINITION. Decoding and encoding of the formats of 30_encoding: the command byte F-CMD (R105 to R111), the
decoder selector F-BD (R103), the control-line edges F-EDGE (R127), and the named operations of a script (R128). -/
namespace Sys2Proof

/-- Why a script word is no operation. -/
inductive DecodeError where
  /-- the word has not the operands its format takes; safe -/
  | wrongShape
  /-- an operand lies outside the range its rule gives; safe -/
  | operandRange
  /-- the pair of levels selects no operation (R127); safe -/
  | noOperation
  deriving DecidableEq, Repr

/-! ### F-CMD -/

/-- `op = R[0][7:4]` (R105). -/
def cmdOp (c : Byte) : BitVec 4 := c.extractLsb' 4 4

/-- `p = R[0][3:0]` (R105). -/
def cmdP (c : Byte) : BitVec 4 := c.extractLsb' 0 4

/-- The command map of R108 over all 256 values, in the decoding order of R109: `op` first; for `op = 0x0` bit
`p[2]` before `p[1]`; for `op = 0x3` bit `p[1]` before `p[2]`. The rows of the table are those of the reference class
table R107; what a bus write executes goes by the configuration's classes (`dispatch`, log entry 15). -/
def decodeCmd (c : Byte) : Instr :=
  let p := cmdP c
  let p0 := p.getLsbD 0
  let p1 := p.getLsbD 1
  let p2 := p.getLsbD 2
  let p3 := p.getLsbD 3
  match (cmdOp c).toNat with
  | 0x0 =>
    if p2 then .unimplClr p3 p1 p0
    else if p1 then (if p3 then .krgR p0 else .krgW p0)
    else (if p3 then .krfR p0 else .krfW p0)
  | 0x1 => .unimplKre p
  | 0x2 => .unimplKrv p
  | 0x3 =>
    if p1 then .unimplOct p3 p2 p0
    else if p3 then (if p2 then .octRAp p0 else .octRMp p0)
    else (if p2 then .octWAp p0 else .octWMp p0)
  | 0x4 => .unimplKrc p
  | 0x5 => .unimplKrl p
  | 0x6 => .unimplExp p
  | 0x7 => .unimplCmp p
  | 0x8 => if p3 then .indR (p.extractLsb' 0 3) else .indW (p.extractLsb' 0 3)
  | 0x9 => .unimplNop p
  | 0xA => .unknownA p
  | 0xB => .iny p
  | 0xC => .unknownC p
  | 0xD => .unimplMvb p
  | 0xE => .unimplMvd p
  | _ => .unimplMvt p

/-! ### F-BD -/

/-- The outcome of the decoder for the selector `(ce, i2, i1, i0)`, `ce` in bit 3 (R103, R147 to R152). -/
def decodeBd (t : BitVec 4) : Instr :=
  let idx := t.extractLsb' 0 3
  if t.getLsbD 3 then
    match idx.toNat with
    | 0 => .bdKbd
    | 1 => .bdTapeRd
    | 2 => .bdVdpDs
    | 3 => .bdNc3
    | 4 => .bdVdpAs
    | 5 => .bdTapeWr
    | 6 => .bdVdpRw
    | _ => .bdNc7
  else .bdIdle idx

/-! ### Named operations -/

/-- A byte operand. -/
def byteArg (n : Nat) : Option Byte := if n < 256 then some (BitVec.ofNat 8 n) else none

/-- A level operand. -/
def levelArg (n : Nat) : Option Level := if n = 0 then some false else if n = 1 then some true else none

/-- A three-bit operand. -/
def bits3Arg (n : Nat) : Option (BitVec 3) := if n < 8 then some (BitVec.ofNat 3 n) else none

/-- A byte sequence (a tape image). -/
def bytesArg : List Nat → Option (List Byte)
  | [] => some []
  | n :: ns =>
    match byteArg n, bytesArg ns with
    | some b, some bs => some (b :: bs)
    | _, _ => none

/-- An operand list is accepted only if it makes a well-formed operation. -/
def accept (o : Option Instr) : Except DecodeError Instr :=
  match o with
  | some i => if i.wf then .ok i else .error .operandRange
  | none => .error .operandRange

/-- A named operation with its operands. -/
def decodeNamed : NamedOp → List Nat → Except DecodeError Instr
  | .raTick, [] => .ok .raTick
  | .raServiceRow, [] => .ok .raServiceRow
  | .raRowReload, [k] => accept (some (.raRowReload k))
  | .raQuadrant, [] => .ok .raQuadrant
  | .raCell, [c, sl, al] => accept (some (.raCell c sl al))
  | .raAdvance, [] => .ok .raAdvance
  | .raSync, [] => .ok .raSync
  | .tpInsert, ns => accept ((bytesArg ns).map .tpInsert)
  | .tpEject, [] => .ok .tpEject
  | .tpTick, [v, d] => accept ((bits3Arg v).bind fun v => (byteArg d).map fun d => .tpTick v d)
  | .tpSync, [] => .ok .tpSync
  | .tpBit0, [] => .ok .tpBit0
  | .tpBit1, [] => .ok .tpBit1
  | .tpErr, [] => .ok .tpErr
  | .tpDrain, [] => .ok .tpDrain
  | .tpNotimpl, [] => .ok .tpNotimpl
  | .tpInert, [] => .ok .tpInert
  | .sysTick, [] => .ok .sysTick
  | .sysRun, [n] => .ok (.sysRun n)
  | .sysReset, [] => .ok .sysReset
  | .hostFb, [z] => accept ((levelArg z).map .hostFb)
  | .hostInsert, ns => accept ((bytesArg ns).map .hostInsert)
  | .hostEject, [] => .ok .hostEject
  | .hostReset, [] => .ok .hostReset
  | .out, [q, v, a, b] => accept ((byteArg q).bind fun q => (byteArg v).map fun v => .out q v ⟨a, b⟩)
  | .inp, [q, a, b] => accept ((byteArg q).map fun q => .inp q ⟨a, b⟩)
  | .idle, [k] => .ok (.idle k)
  | .wreg, [n, v, a, b, c, d] =>
    accept ((bits3Arg n).bind fun n => (byteArg v).map fun v => .wreg n v ⟨a, b⟩ ⟨c, d⟩)
  | .wregx, [n, v, a, b, c, d] =>
    accept ((bits3Arg n).bind fun n => (byteArg v).map fun v => .wregx n v ⟨a, b⟩ ⟨c, d⟩)
  | .rreg, [n, a, b, c, d] => accept ((bits3Arg n).map fun n => .rreg n ⟨a, b⟩ ⟨c, d⟩)
  | .cmd, [q, a, b, c, d] => accept ((byteArg q).map fun q => .cmd q ⟨a, b⟩ ⟨c, d⟩)
  | .kout, [v, a, b] => accept ((byteArg v).map fun v => .kout v ⟨a, b⟩)
  | _, _ => .error .wrongShape

/-! ### Any word -/

/-- The operation a pair (previous level, present level) of `AS` selects, with the byte and the `DS` level present
at the edge (R127, R162). -/
def decodeEdgeAs (pair ad ds : Nat) : Except DecodeError Instr :=
  if pair = 2 then accept ((byteArg ad).bind fun ad => (levelArg ds).map fun ds => .vbAsFall ad ds)
  else .error .noOperation

/-- The operation a pair of `DS` selects, with the `RW` level present at the edge (R127, R163). -/
def decodeEdgeDs (pair rw : Nat) : Except DecodeError Instr :=
  if pair = 2 then accept ((levelArg rw).map .vbDsFall) else .error .noOperation

/-- The operation a pair of `RW` selects, with the byte present at the edge (R127, R165, R166). A rising edge takes
no byte: the operand word is 0. -/
def decodeEdgeRw (pair ad : Nat) : Except DecodeError Instr :=
  if pair = 2 then accept ((byteArg ad).map .vbRwFall)
  else if pair = 1 then (if ad = 0 then .ok .vbRwRise else .error .operandRange)
  else .error .noOperation

/-- The operation of a script word; total, every rejection by name. -/
def decode (w : OpWord) : Except DecodeError Instr :=
  match w.format, w.args with
  | .bd, [t] => if t < 16 then .ok (decodeBd (BitVec.ofNat 4 t)) else .error .operandRange
  | .edgeAs, [pair, ad, ds] => decodeEdgeAs pair ad ds
  | .edgeDs, [pair, rw] => decodeEdgeDs pair rw
  | .edgeRw, [pair, ad] => decodeEdgeRw pair ad
  | .cmd, [c] => if c < 256 then .ok (decodeCmd (BitVec.ofNat 8 c)) else .error .operandRange
  | .named op, args => decodeNamed op args
  | _, _ => .error .wrongShape

/-! ### The encoder -/

/-- A command byte from its opcode and parameter nibbles (R105). -/
def cmdByte (op p : BitVec 4) : Byte := op ++ p

/-- The parameter nibble from its bits. -/
def nibble (p3 p2 p1 p0 : Bool) : BitVec 4 :=
  BitVec.ofBool p3 ++ BitVec.ofBool p2 ++ BitVec.ofBool p1 ++ BitVec.ofBool p0

/-- The command byte of a command of the table (R106, R107, R108); none for an operation of another format. -/
def encodeCmd? : Instr → Option Byte
  | .krfW i => some (cmdByte 0x0 (nibble false false false i))
  | .krfR i => some (cmdByte 0x0 (nibble true false false i))
  | .krgW i => some (cmdByte 0x0 (nibble false false true i))
  | .krgR i => some (cmdByte 0x0 (nibble true false true i))
  | .unimplClr p3 p1 p0 => some (cmdByte 0x0 (nibble p3 true p1 p0))
  | .unimplKre p => some (cmdByte 0x1 p)
  | .unimplKrv p => some (cmdByte 0x2 p)
  | .octWMp i => some (cmdByte 0x3 (nibble false false false i))
  | .octWAp i => some (cmdByte 0x3 (nibble false true false i))
  | .octRMp i => some (cmdByte 0x3 (nibble true false false i))
  | .octRAp i => some (cmdByte 0x3 (nibble true true false i))
  | .unimplOct p3 p2 p0 => some (cmdByte 0x3 (nibble p3 p2 true p0))
  | .unimplKrc p => some (cmdByte 0x4 p)
  | .unimplKrl p => some (cmdByte 0x5 p)
  | .unimplExp p => some (cmdByte 0x6 p)
  | .unimplCmp p => some (cmdByte 0x7 p)
  | .indW r => some (cmdByte 0x8 ((0#1) ++ r))
  | .indR r => some (cmdByte 0x8 ((1#1) ++ r))
  | .unimplNop p => some (cmdByte 0x9 p)
  | .unknownA p => some (cmdByte 0xA p)
  | .iny p => some (cmdByte 0xB p)
  | .unknownC p => some (cmdByte 0xC p)
  | .unimplMvb p => some (cmdByte 0xD p)
  | .unimplMvd p => some (cmdByte 0xE p)
  | .unimplMvt p => some (cmdByte 0xF p)
  | .bdIdle _ | .bdKbd | .bdTapeRd | .bdVdpDs | .bdNc3 | .bdVdpAs | .bdTapeWr | .bdVdpRw | .bdNc7
  | .vbAsFall _ _ | .vbDsFall _ | .vbRwFall _ | .vbRwRise
  | .raTick | .raServiceRow | .raRowReload _ | .raQuadrant | .raCell _ _ _ | .raAdvance | .raSync
  | .tpInsert _ | .tpEject | .tpTick _ _ | .tpSync | .tpBit0 | .tpBit1 | .tpErr | .tpDrain | .tpNotimpl | .tpInert
  | .sysTick | .sysRun _ | .sysReset | .hostFb _ | .hostInsert _ | .hostEject | .hostReset
  | .out _ _ _ | .inp _ _ | .idle _ | .wreg _ _ _ _ | .wregx _ _ _ _ | .rreg _ _ _ | .cmd _ _ _ | .kout _ _ => none

/-- The numbers of a byte sequence. -/
def bytesNat (bs : List Byte) : List Nat := bs.map BitVec.toNat

/-- A word of a named operation. -/
def namedWord (op : NamedOp) (args : List Nat) : OpWord := ⟨.named op, args⟩

/-- The script word of an operation, from the same tables. -/
def encode (i : Instr) : OpWord :=
  match encodeCmd? i with
  | some c => ⟨.cmd, [c.toNat]⟩
  | none =>
    match i with
    | .bdIdle idx => ⟨.bd, [((0#1) ++ idx).toNat]⟩
    | .bdKbd => ⟨.bd, [0x8]⟩
    | .bdTapeRd => ⟨.bd, [0x9]⟩
    | .bdVdpDs => ⟨.bd, [0xA]⟩
    | .bdNc3 => ⟨.bd, [0xB]⟩
    | .bdVdpAs => ⟨.bd, [0xC]⟩
    | .bdTapeWr => ⟨.bd, [0xD]⟩
    | .bdVdpRw => ⟨.bd, [0xE]⟩
    | .bdNc7 => ⟨.bd, [0xF]⟩
    | .vbAsFall ad ds => ⟨.edgeAs, [2, ad.toNat, ds.toNat]⟩
    | .vbDsFall rw => ⟨.edgeDs, [2, rw.toNat]⟩
    | .vbRwFall ad => ⟨.edgeRw, [2, ad.toNat]⟩
    | .vbRwRise => ⟨.edgeRw, [1, 0]⟩
    | .raTick => namedWord .raTick []
    | .raServiceRow => namedWord .raServiceRow []
    | .raRowReload k => namedWord .raRowReload [k]
    | .raQuadrant => namedWord .raQuadrant []
    | .raCell c sl al => namedWord .raCell [c, sl, al]
    | .raAdvance => namedWord .raAdvance []
    | .raSync => namedWord .raSync []
    | .tpInsert image => namedWord .tpInsert (bytesNat image)
    | .tpEject => namedWord .tpEject []
    | .tpTick svc d => namedWord .tpTick [svc.toNat, d.toNat]
    | .tpSync => namedWord .tpSync []
    | .tpBit0 => namedWord .tpBit0 []
    | .tpBit1 => namedWord .tpBit1 []
    | .tpErr => namedWord .tpErr []
    | .tpDrain => namedWord .tpDrain []
    | .tpNotimpl => namedWord .tpNotimpl []
    | .tpInert => namedWord .tpInert []
    | .sysTick => namedWord .sysTick []
    | .sysRun n => namedWord .sysRun [n]
    | .sysReset => namedWord .sysReset []
    | .hostFb z => namedWord .hostFb [z.toNat]
    | .hostInsert image => namedWord .hostInsert (bytesNat image)
    | .hostEject => namedWord .hostEject []
    | .hostReset => namedWord .hostReset []
    | .out q v t => namedWord .out [q.toNat, v.toNat, t.strobe, t.idle]
    | .inp q t => namedWord .inp [q.toNat, t.strobe, t.idle]
    | .idle k => namedWord .idle [k]
    | .wreg n v t u => namedWord .wreg [n.toNat, v.toNat, t.strobe, t.idle, u.strobe, u.idle]
    | .wregx n v t u => namedWord .wregx [n.toNat, v.toNat, t.strobe, t.idle, u.strobe, u.idle]
    | .rreg n t u => namedWord .rreg [n.toNat, t.strobe, t.idle, u.strobe, u.idle]
    | .cmd c t u => namedWord .cmd [c.toNat, t.strobe, t.idle, u.strobe, u.idle]
    | .kout b t => namedWord .kout [b.toNat, t.strobe, t.idle]
    | .krfW _ | .krfR _ | .krgW _ | .krgR _ | .unimplClr _ _ _ | .unimplKre _ | .unimplKrv _
    | .octWMp _ | .octWAp _ | .octRMp _ | .octRAp _ | .unimplOct _ _ _ | .unimplKrc _ | .unimplKrl _
    | .unimplExp _ | .unimplCmp _ | .indW _ | .indR _ | .unimplNop _ | .unknownA _ | .iny _ | .unknownC _
    | .unimplMvb _ | .unimplMvd _ | .unimplMvt _ => ⟨.cmd, []⟩

/-! ### Words numbered as the table numbers them -/

/-- The script word of a table row's bits. The formats overlap, so the width decides: 8 bits are a command byte
(the only format that fills a byte), 4 bits a decoder selector, 2 bits an edge of `AS` (falling) or `RW` (rising);
operands above the row's bits are 0 (log entry 7). -/
def tableWord (nbits w : Nat) : OpWord :=
  if nbits = 8 then ⟨.cmd, [w]⟩
  else if nbits = 4 then ⟨.bd, [w]⟩
  else if nbits = 2 then (if w = 2 then ⟨.edgeAs, [w, 0, 0]⟩ else ⟨.edgeRw, [w, 0]⟩)
  else ⟨.bd, []⟩

/-- The operation the decoder reads from a table row's bits. -/
def decodeTableWord (nbits w : Nat) : Option Instr :=
  match decode (tableWord nbits w) with
  | .ok i => some i
  | .error _ => none

end Sys2Proof
end

