-- ==== Sys2Proof/Machine/Reference.lean ====
section
/-! DEFINITION. `CFG_REF`, the reference instantiation of the OPEN parameters (00_scope R5). DESIGN CHOICE of the
spec: "`CFG_REF` values are the spec's own choice and are not claims about the chip" (log entry 1). -/
namespace Sys2Proof.Machine

/-- `WIRE_ref` (40_bus_decoder R146). -/
def wireRef : Wire := { kbd := 0, tapeRd := 1, ds := 2, as := 4, tapeWr := 5, rw := 6 }

/-- `CellLayout_ref` (30_encoding R119). -/
def cellLayoutRef : CellLayout :=
  { kind := { hi := 7, mid := 6, lo := 5 }, delimPattern := 0b100, graphic := 7, dw := 11, dh := 9
    fg := { hi := 22, mid := 21, lo := 20 }, bg := { hi := 18, mid := 17, lo := 16 }
    underline := 10, insert := 9, conceal := 8 }

/-- A CPU pin record with nothing asserted. -/
def idlePins : CpuPins :=
  { a := 0, d := 0, mreq := false, iorq := false, rd := false, wr := false, int := false, nmi := false }

/-- `CFG_REF` (R5, last but one column). The reset pins of the CPU are the model's choice (log entry 4). -/
def configRef : Config :=
  { ratio := 3, ticksPerLine312 := 768, ticksPerLine262 := 768, hsTicks := 56, hActiveStart := 120
    ticksPerCell := 12, vActiveStart := 10, ceAddrBit := 7, selLoBit := 5, selHiBit := 6, wire := wireRef
    portAs := 0x8F, portDs := 0xCF, portTape := 0xAF
    cmdClassAt := [], transcodeAt := [], ptrBlockAt := [], glyphAt := [], layout := cellLayoutRef, pixLsbLeft := true
    tapeMax := 65588, ringCap := 8, longMin := 1250, longMax := 2500, shortMin := 500, shortMax := 1249
    errorDrainN := 16, tapeWdataBit := 0, intFromVs := true, cpuResetPins := idlePins }

end Sys2Proof.Machine
end

