-- ==== Sys2Proof/Machine/State.lean ====
section
/-! DEFINITION. The state of the block as plain data: everything 10_state lists, and the model's own fields for the
outside world (INVENTORY.md, State), the reasons a step can stop, and the state after reset (10_state R53). -/
namespace Sys2Proof.Machine

/-- Byte memory: the addresses that differ from `memoryBlank`, strictly rising. -/
abbrev Memory := List Host.Cell

/-- What an address a memory does not list reads as: the framebuffer's clear value 0 (R53), and for video RAM the
model's choice (log entry 2). -/
def memoryBlank : Byte := 0

/-- A quadrant value (R37). -/
inductive Quadrant where
  | none | dwL | dwR | dhT | dhB | dsTL | dsTR | dsBL | dsBR
  deriving DecidableEq, Repr

/-- A slot of the row buffer: the raw bytes and the decoded record (R34). The character code is `c`. -/
structure RowCell where
  a : Byte
  b : Byte
  c : Byte
  kind : CellKind
  fg : BitVec 3
  bg : BitVec 3
  underline : Bool
  conceal : Bool
  insert : Bool
  dw : Bool
  dh : Bool
  deriving DecidableEq, Repr

/-- A slot after reset (R53). -/
def blankCell : RowCell :=
  { a := 0, b := 0, c := 0, kind := .alpha, fg := 0, bg := 0, underline := false, conceal := false, insert := false
    dw := false, dh := false }

/-- The derived configuration `cfg` (R27). -/
structure DerivedCfg where
  linesPerFrame : Nat
  interlace : Bool
  charMode : BitVec 3
  blockOrigin : BitVec 2
  originRow : BitVec 5
  deriving DecidableEq, Repr

/-- The VDP pin bus F-VDP (30_encoding R102). -/
structure VdpPins where
  ad : Byte
  as : Level
  ds : Level
  rw : Level
  hs : Level
  vs : Level
  am : BitVec 6
  deriving DecidableEq, Repr

/-- The decoder byte `Y` and the six decoder outputs (30_encoding R103, 40_bus_decoder R146). -/
structure BusLines where
  y : Byte
  as : Level
  ds : Level
  rw : Level
  kbd : Level
  tapeRd : Level
  tapeWr : Level
  deriving DecidableEq, Repr

/-- Parsed header metadata (R44). -/
structure TapeMeta where
  format : Byte
  name : Vector Byte 6
  version : Byte
  startLine : Vector Byte 5
  protection : Byte
  checkPos : BitVec 16
  startAddr : BitVec 16
  dataLen : BitVec 16
  checksum : BitVec 16
  deriving DecidableEq, Repr

/-- The reason of the last failed insert (R45). -/
inductive InsertError where
  | tooShort
  | badLeadingPreamble
  | badTrailingPreamble
  | lengthExceedsImage
  deriving DecidableEq, Repr

/-- Codec state (R46). -/
inductive TapeState where
  | awaitSync1 | headerBits | awaitSync2 | payload | finished | error
  deriving DecidableEq, Repr

/-- The tape and its codec (R43 to R49). `tape.size` is the length of `image`. -/
structure Tape where
  image : List Byte
  info : TapeMeta
  insertError : Option InsertError
  state : TapeState
  ring : List Nat
  curByte : Byte
  bitCount : Nat
  elapsed : Nat
  wdLatch : Level
  wdPrev : Level
  drained : Nat
  decoded : List Byte
  deriving DecidableEq, Repr

/-- The faults of the block (60_exceptions R331), with the `info` they record. Raising one sets the sticky mark
`State.fault` and gives a NEXT state (R9); `step` itself answers no fault. -/
inductive Fault where
  /-- code 1, raised by a dispatched command byte of an unrecognised class (R202); safe, the spec's own halt -/
  | unknownOpcode (c : Byte)
  /-- code 2, raised by a row reload in character mode 5, 6 or 7 (R227); safe, the spec's own halt -/
  | unknownCharMode (mode : BitVec 3)
  /-- code 3, raised by a row reload in character mode 1, 2 or 3 (R227); safe, the spec's own halt -/
  | notImplementedCharMode (mode : BitVec 3)
  /-- code 4, raised by the orchestrator when the decoder pulls TAPE_RD low (R311 step 8); safe, the spec's own
  halt -/
  | notImplementedTapeRead
  /-- code 5, raised by a toggle in a codec state without behaviour (R281); safe, the spec's own halt -/
  | notImplementedTapeState (state : TapeState)
  deriving DecidableEq, Repr

/-- Why a step has no outcome. -/
inductive Refusal where
  /-- raised by `exec` for an operation that has no meaning yet; safe -/
  | notModelled (mnemonic : String)
  /-- raised by `step` for a script word that encodes no operation; safe -/
  | undecodable (e : DecodeError)
  /-- raised by TP.INSERT and HOST.INSERT for an image longer than `TAPE_MAX`: "the model refuses it" (R270, U31);
  safe -/
  | imageTooLong
  /-- raised by an operation given operands its rule does not admit (log entry 21); no decoded word gives such
  operands; safe -/
  | outsideDomain (mnemonic : String)
  deriving DecidableEq, Repr

/-- A record of the diagnostic trace (00_scope R10). -/
inductive LogEvent where
  | r0PlaceholderRead
  | unimplementedCommand (c : Byte)
  | tapeDecodeError (ring : List Nat)
  | tapeDrain (d : Nat)
  deriving DecidableEq, Repr

/-- The external collaborators as the block sees them: what they will answer, and whether a debug hook is installed.
An empty queue answers with the free value number `free` (log entry 5). `stopRequests` says of each coming turn of the
host between system ticks whether it sets `stop_flag` (45_system_tick R321, log entry 24). -/
structure Outside where
  cpu : List CpuPins
  mem : List Byte
  kbd : List Byte
  hookInstalled : Bool
  hook : List Bool
  stopRequests : List Bool
  free : Nat
  deriving DecidableEq, Repr

/-- What the last host call or script read returned (log entry 13). -/
inductive HostResult where
  | none
  /-- TP.INSERT, HOST.INSERT (R270) -/
  | inserted (ok : Bool)
  /-- SYS.RUN (R316) -/
  | ticks (count : Nat)
  /-- IN: the value read (R129) -/
  | byteRead (v : Byte)
  /-- HOST.FB: width, height, bytes per pixel, the pixels, the palette (R318) -/
  | framebuffer (width height bytesPerPixel : Nat) (pixels : Memory) (palette : List (BitVec 32))
  /-- HOST.FB asked with a null system pointer: null and zero-sized results (R318) -/
  | framebufferNull
  deriving DecidableEq, Repr

/-- The state of the machine. Fields down to `stopFlag` are the spec's (10_state); the others are the model's. -/
structure State where
  /-- direct registers (R20) -/
  r : Vector Byte 8
  /-- indirect registers (R25) -/
  ir : Vector Byte 8
  /-- derived configuration (R27) -/
  cfg : DerivedCfg
  /-- raster position within the line (R30) -/
  tickInLine : Nat
  /-- raster line (R30) -/
  line : Nat
  /-- R32 -/
  addrLatch : Byte
  dsLatch : Level
  xqLatch : Bool
  /-- edge detectors (R33) -/
  prevAs : Level
  prevDs : Level
  prevRw : Level
  /-- row buffer (R34) -/
  rowbuf : Vector RowCell 40
  /-- R35 -/
  rowY : BitVec 5
  /-- quadrant buffer (R36) -/
  quad : Vector Quadrant 40
  /-- framebuffer (R38) -/
  fb : Memory
  /-- VDP output pins (R39) -/
  hs : Level
  vs : Level
  adOut : Byte
  adDriven : Bool
  /-- video RAM (R40) -/
  vram : Memory
  /-- cassette codec (R43 to R49) -/
  tape : Tape
  /-- the sticky fault mark (R50) -/
  fault : Option Fault
  /-- the write-only trace, oldest first (R50) -/
  log : List LogEvent
  /-- the CPU's pin vector between ticks (R51) -/
  cpuPins : CpuPins
  /-- R51 -/
  tickCount : Nat
  stopFlag : Bool
  /-- MODEL: CFG, a launch argument (log entry 1) -/
  config : Config
  /-- MODEL: the VDP pin bus threaded through a tick (log entry 9) -/
  pins : VdpPins
  /-- MODEL: the decoder's lines as last evaluated (log entry 9) -/
  bus : BusLines
  /-- MODEL: the CPU record of the tick in progress (log entry 9) -/
  cpu : CpuPins
  /-- MODEL: the operations still asked for (log entry 6) -/
  script : List OpWord
  /-- MODEL: the external collaborators (log entry 5) -/
  outside : Outside
  /-- MODEL: what the last host call or script read returned (log entry 13) -/
  result : HostResult
  deriving DecidableEq, Repr

/-- `Derive` of all-zero indirect registers (R53, R361). -/
def cfgReset : DerivedCfg :=
  { linesPerFrame := 312, interlace := false, charMode := 0, blockOrigin := 0, originRow := 0 }

/-- The metadata of the blank tape (R44). -/
def blankMeta : TapeMeta :=
  { format := 0, name := Vector.replicate 6 0, version := 0, startLine := Vector.replicate 5 0, protection := 0
    checkPos := 0, startAddr := 0, dataLen := 0, checksum := 0 }

/-- The tape after reset (R53, R367). -/
def tapeReset : Tape :=
  { image := [], info := blankMeta, insertError := none, state := .awaitSync1, ring := [], curByte := 0, bitCount := 0
    elapsed := 0, wdLatch := false, wdPrev := false, drained := 0, decoded := [] }

/-- The decoder lines with chip enable false (40_bus_decoder R147). -/
def idleBus : BusLines :=
  { y := 0xFF, as := true, ds := true, rw := true, kbd := true, tapeRd := true, tapeWr := true }

/-- The outside world at launch: nothing queued or requested, no debug hook. -/
def outsideReset : Outside :=
  { cpu := [], mem := [], kbd := [], hookInstalled := false, hook := []
    stopRequests := [], free := 0 }

/-- The state a launch starts from (70_reset R360): the table of R53 with its two launch arguments, the
configuration and the initial video RAM (R365). -/
def State.launch (config : Config) (vram : Memory) : State :=
  { r := Vector.replicate 8 0, ir := Vector.replicate 8 0, cfg := cfgReset, tickInLine := 0, line := 0
    addrLatch := 0, dsLatch := true, xqLatch := false, prevAs := true, prevDs := true, prevRw := true
    rowbuf := Vector.replicate 40 blankCell, rowY := 0, quad := Vector.replicate 40 .none, fb := []
    hs := true, vs := true, adOut := 0, adDriven := false, vram := vram, tape := tapeReset, fault := none, log := []
    cpuPins := config.cpuResetPins, tickCount := 0, stopFlag := false, config := config
    pins := { ad := 0, as := true, ds := true, rw := true, hs := true, vs := true, am := 0 }
    bus := idleBus, cpu := config.cpuResetPins, script := [], outside := outsideReset, result := .none }

/-- The machine right after reset: R53 with `CFG_REF` and no video-RAM byte listed (log entries 1 and 2). -/
def State.reset : State := State.launch configRef []

end Sys2Proof.Machine
end

