-- ==== Sys2Proof/Machine/Ops.lean ====
section
/-! DEFINITION. The named operations over memory, registers and the block-wide marks: every meaning goes through
these. Raising a fault (00_scope R9) and leaving the halt by reset (70_reset R360) stand here, once. -/
namespace Sys2Proof.Machine

/-! ### Byte memory -/

/-- The byte at an address. -/
def Memory.read : Memory → Nat → Byte
  | [], _ => memoryBlank
  | (b, w) :: m, a => if a = b then w else Memory.read m a

/-- Store a byte, keeping the addresses rising and unlisting a blank byte. -/
def Memory.write : Memory → Nat → Byte → Memory
  | [], a, v => if v = memoryBlank then [] else [(a, v)]
  | (b, w) :: m, a, v =>
    if a < b then (if v = memoryBlank then (b, w) :: m else (a, v) :: (b, w) :: m)
    else if a = b then (if v = memoryBlank then m else (a, v) :: m)
    else (b, w) :: Memory.write m a v

/-- The canonical form: addresses strictly rising, no blank byte listed. -/
def Memory.wf : Memory → Bool
  | [] => true
  | (a, v) :: m => v ≠ memoryBlank && m.all (fun cell => a < cell.1) && Memory.wf m

/-- Every listed address lies in `lo .. hi - 1`. -/
def Memory.within (lo hi : Nat) (m : Memory) : Bool := m.all (fun cell => lo ≤ cell.1 && cell.1 < hi)

/-! ### The halt -/

/-- `raise F(info)` (R9): the mark is set if none is; the rest of the tick is skipped by `live`. -/
def raise (f : Fault) (s : State) : State :=
  match s.fault with
  | none => { s with fault := some f }
  | some _ => s

/-- A sub-step runs only while no fault is marked: after a `raise`, "no later sub-step of that tick and no later
tick changes any state" (R9). -/
def live (f : State → State) (s : State) : State :=
  match s.fault with
  | none => f s
  | some _ => s

/-- A sequence of sub-steps, ended by the first `raise` (R9, 60_exceptions R343). -/
def liveSeq : List (State → State) → State → State
  | [], s => s
  | f :: fs, s => liveSeq fs (live f s)

/-- A sub-step taken under a condition. -/
def onlyIf (c : Bool) (f : State → State) (s : State) : State := if c then f s else s

/-- The code of a fault (60_exceptions R331). -/
def faultCode : Fault → Nat
  | .unknownOpcode _ => 1
  | .unknownCharMode _ => 2
  | .notImplementedCharMode _ => 3
  | .notImplementedTapeRead => 4
  | .notImplementedTapeState _ => 5

/-- Reset (R360): every state item at the value of R53; video RAM (R365), the configuration and the outside world
stay, and `result` with them (log entry 14). It is the only way out of the halt (R345). -/
def resetFrom (s : State) : State :=
  { State.launch s.config s.vram with script := s.script, outside := s.outside, result := s.result }

/-- `Log(event)` (R10). -/
def logEvent (e : LogEvent) (s : State) : State := { s with log := s.log ++ [e] }

/-- What a host call or script read returns. -/
def setResult (x : HostResult) (s : State) : State := { s with result := x }

/-! ### Registers -/

/-- `R[i]` (R8, R23). -/
def getReg (s : State) (i : BitVec 3) : Byte := s.r[i.toNat]'i.isLt

/-- `R[i] <- v` (R8, R23). -/
def setReg (i : BitVec 3) (v : Byte) (s : State) : State := { s with r := s.r.set i.toNat v i.isLt }

/-- `IR[i]` (R8). -/
def getIReg (s : State) (i : BitVec 3) : Byte := s.ir[i.toNat]'i.isLt

/-- `IR[i] <- v`, without the recomputation (R26). -/
def setIReg (i : BitVec 3) (v : Byte) (s : State) : State := { s with ir := s.ir.set i.toNat v i.isLt }

/-- `Derive(IR)` (42_vdp_commands R199, fields of 30_encoding R114, R115, R117). -/
def derive (ir : Vector Byte 8) : DerivedCfg :=
  { linesPerFrame := if ir[1].getLsbD 0 then 262 else 312
    interlace := ir[1].getLsbD 1
    charMode := BitVec.ofBool (ir[3].getLsbD 7) ++ BitVec.ofBool (ir[1].getLsbD 7) ++ BitVec.ofBool (ir[1].getLsbD 6)
    blockOrigin := ir[7].extractLsb' 5 2
    originRow := ir[7].extractLsb' 0 5 }

/-- `Recompute()` (R199). -/
def recompute (s : State) : State := { s with cfg := derive s.ir }

/-! ### Video RAM and framebuffer -/

/-- `MemRead(a, 1)` (20_memory R76). -/
def vramRead (s : State) (a : BitVec 13) : Byte := s.vram.read a.toNat

/-- `MemWrite(a, 1, v)` (20_memory R76). -/
def vramWrite (a : BitVec 13) (v : Byte) (s : State) : State := { s with vram := s.vram.write a.toNat v }

/-- Framebuffer width `FB_W` and height `FB_H` (R5). -/
def fbWidth : Nat := 320
def fbHeight : Nat := 250

/-- `fb[i]` (R38). -/
def fbRead (s : State) (i : Nat) : Byte := s.fb.read i

/-- `fb[y*320 + x] <- colour` (R38, R236). -/
def fbWrite (x y : Nat) (colour : BitVec 3) (s : State) : State :=
  { s with fb := s.fb.write (y * fbWidth + x) (colour.setWidth 8) }

/-! ### Answers of the external collaborators (45_system_tick R312 to R317, log entry 5) -/

/-- Use up one free value. -/
def bumpFree (s : State) : State := { s with outside := { s.outside with free := s.outside.free + 1 } }

/-- The record the CPU's tick returns (R312). -/
def cpuAnswer (s : State) : CpuPins :=
  match s.outside.cpu with
  | p :: _ => p
  | [] => Config.freeCpuTick s.outside.free s.cpuPins

/-- The CPU's answer is used up. -/
def dropCpuAnswer (s : State) : State :=
  match s.outside.cpu with
  | _ :: ps => { s with outside := { s.outside with cpu := ps } }
  | [] => bumpFree s

/-- The byte main memory answers at an address (R313). -/
def memAnswer (s : State) (a : BitVec 16) : Byte :=
  match s.outside.mem with
  | b :: _ => b
  | [] => Config.freeMemByte s.outside.free a

/-- The memory's answer is used up. -/
def dropMemAnswer (s : State) : State :=
  match s.outside.mem with
  | _ :: bs => { s with outside := { s.outside with mem := bs } }
  | [] => bumpFree s

/-- The byte the keyboard answers at an address (R314). -/
def keyAnswer (s : State) (a : BitVec 16) : Byte :=
  match s.outside.kbd with
  | b :: _ => b
  | [] => Config.freeKey s.outside.free a

/-- The keyboard's answer is used up. -/
def dropKeyAnswer (s : State) : State :=
  match s.outside.kbd with
  | _ :: bs => { s with outside := { s.outside with kbd := bs } }
  | [] => bumpFree s

/-- Whether the debug hook asks to stop (R317). -/
def hookAnswer (s : State) : Bool :=
  match s.outside.hook with
  | b :: _ => b
  | [] => Config.freeHook s.outside.free

/-- The hook's answer is used up. -/
def dropHookAnswer (s : State) : State :=
  match s.outside.hook with
  | _ :: bs => { s with outside := { s.outside with hook := bs } }
  | [] => bumpFree s

/-- The host's turn between two system ticks: it may set `stop_flag` (00_scope R4, 45_system_tick R321; log entry 24).
-/
def hostTurn (s : State) : State :=
  { s with
      stopFlag := s.stopFlag || s.outside.stopRequests.headD false
      outside := { s.outside with stopRequests := s.outside.stopRequests.tail } }

/-! ### The script -/

/-- The word the next step runs. -/
def nextWord (s : State) : Option OpWord := s.script.head?

/-- The script after that word is taken. -/
def dropWord (s : State) : State := { s with script := s.script.tail }

/-- The script with a word placed where the next step looks. -/
def placeWord (w : OpWord) (s : State) : State := { s with script := w :: s.script }

end Sys2Proof.Machine
end

