-- ==== Sys2Proof/Machine/Flags.lean ====
section
/-! DEFINITION. The conditions the rules test. The block has no condition codes (10_state R24): "Flags written:
none" holds of every operation, so this file holds the tests only: pulse windows, sync levels, the interrupt level,
the character mode and the cursor. -/
namespace Sys2Proof.Machine

/-- `Long(d)` (30_encoding R123). -/
def isLong (c : Config) (d : Nat) : Bool := c.longMin ≤ d && d ≤ c.longMax

/-- `Short(d)` (30_encoding R123). -/
def isShort (c : Config) (d : Nat) : Bool := c.shortMin ≤ d && d ≤ c.shortMax

/-- Two long pulses at the front of the ring: a synchro or a 0 bit (R124). -/
def frontLongPair (c : Config) : List Nat → Bool
  | a :: b :: _ => isLong c a && isLong c b
  | _ => false

/-- Four short pulses at the front of the ring: a 1 bit (R124). -/
def frontFourShort (c : Config) : List Nat → Bool
  | w :: x :: y :: z :: _ => isShort c w && isShort c x && isShort c y && isShort c z
  | _ => false

/-- Level of `vs` for a raster line (43_vdp_raster R224). -/
def vsLevel (line : Nat) : Level := !(line == 0 || line == 1)

/-- Level of `hs` for a position in the line (43_vdp_raster R225). -/
def hsLevel (c : Config) (tick : Nat) : Level := !decide (tick < c.hsTicks)

/-- The CPU's interrupt input: asserted while `VS` is low, if wired (60_exceptions R340). -/
def interruptLevel (c : Config) (vs : Level) : Bool := c.intFromVs && !vs

/-- `TICKS_PER_LINE(lpf)` (R5). -/
def ticksPerLine (c : Config) (lpf : Nat) : Nat := if lpf = 262 then c.ticksPerLine262 else c.ticksPerLine312

/-- `CheckCharMode()`: the fault of a character mode, if it has one (43_vdp_raster R227). -/
def charModeFault (mode : BitVec 3) : Option Fault :=
  match mode.toNat with
  | 0 => none
  | 4 => none
  | 1 => some (.notImplementedCharMode mode)
  | 2 => some (.notImplementedCharMode mode)
  | 3 => some (.notImplementedCharMode mode)
  | _ => some (.unknownCharMode mode)

/-- `CursorHere(c)` (43_vdp_raster R239). -/
def cursorHere (s : State) (c : Nat) : Bool :=
  (getIReg s 2).getLsbD 6 && c == ((getReg s 7).extractLsb' 0 6).toNat && s.rowY == (getReg s 6).extractLsb' 0 5

end Sys2Proof.Machine
end

