-- ==== Sys2Proof/Machine/Operands.lean ====
section
/-! DEFINITION. The operand forms of the commands and of the display: pointers, the transcoding function, plane
addresses, and the pointer increments (20_memory R72 to R75, 30_encoding R113, 42_vdp_commands R181 to R186). -/
namespace Sys2Proof.Machine

/-- Look a key up in a list of exceptions. -/
def lookupOr {α β : Type} [DecidableEq α] : List (α × β) → α → β → β
  | [], _, dflt => dflt
  | (k, v) :: rest, a, dflt => if a = k then v else lookupOr rest a dflt

/-- `Transcode_ref(block, col, row) = block*2048 + row*64 + col` (R73). -/
def transcodeRef (block : BitVec 2) (col : BitVec 6) (row : BitVec 5) : BitVec 13 := block ++ row ++ col

/-- `Transcode` (R72): any function of the triple into the 8192 offsets, so laws L1, L2 and L4 hold by its type. -/
def transcode (c : Config) (block : BitVec 2) (col : BitVec 6) (row : BitVec 5) : BitVec 13 :=
  lookupOr c.transcodeAt (block, col, row) (transcodeRef block col row)

/-- `PlaneAddr(z, j, col, row) = Transcode((z + j) mod N_PLANES, col, row)` (R74). -/
def planeAddr (c : Config) (z j : BitVec 2) (col : BitVec 6) (row : BitVec 5) : BitVec 13 := transcode c (z + j) col row

/-- `PtrBlock_ref(rowreg, colreg) = 2*colreg[6] + colreg[7]` (R113). -/
def ptrBlockRef (colreg : Byte) : BitVec 2 := BitVec.ofBool (colreg.getLsbD 6) ++ BitVec.ofBool (colreg.getLsbD 7)

/-- `PtrBlock` (R113). -/
def ptrBlock (c : Config) (rowreg colreg : Byte) : BitVec 2 := lookupOr c.ptrBlockAt (rowreg, colreg) (ptrBlockRef colreg)

/-- A pointer into video RAM as (block, col, row) (R74). -/
structure Ptr where
  blk : BitVec 2
  col : BitVec 6
  row : BitVec 5
  deriving DecidableEq, Repr

/-- The pointer a (row register, column register) pair holds (R113). -/
def ptrOf (c : Config) (rowreg colreg : Byte) : Ptr :=
  { blk := ptrBlock c rowreg colreg, col := colreg.extractLsb' 0 6, row := rowreg.extractLsb' 0 5 }

/-- The memory pointer MP, in `R[6]`, `R[7]` (R74, R181). -/
def mp (s : State) : Ptr := ptrOf s.config (getReg s 6) (getReg s 7)

/-- The auxiliary pointer AP, in `R[4]`, `R[5]` (R74, R181). -/
def ap (s : State) : Ptr := ptrOf s.config (getReg s 4) (getReg s 5)

/-- `Addr(ptr, j)` (R181). -/
def ptrAddr (c : Config) (p : Ptr) (j : BitVec 2) : BitVec 13 := planeAddr c p.blk j p.col p.row

/-- The column counter's successor, modulo 40 (R184). -/
def nextCol (col : BitVec 6) : BitVec 6 := BitVec.ofNat 6 ((col.toNat + 1) % 40)

/-- Whether the increment counts as a wrap (R184). -/
def colWraps (col : BitVec 6) : Bool := 40 ≤ col.toNat + 1

/-- The row counter's successor: 32 becomes 8 (R185). -/
def nextRow (row : BitVec 5) : BitVec 5 :=
  BitVec.ofNat 5 (if row.toNat + 1 > 31 then row.toNat + 1 - 24 else row.toNat + 1)

/-- A column register after the increment, bits 7:6 unchanged (R184). -/
def incColByte (v : Byte) : Byte := v.extractLsb' 6 2 ++ nextCol (v.extractLsb' 0 6)

/-- A row register after the increment, bits 7:5 unchanged (R185). -/
def incRowByte (v : Byte) : Byte := v.extractLsb' 5 3 ++ nextRow (v.extractLsb' 0 5)

/-- `IncRow(k)` (R185). -/
def incRow (k : BitVec 3) (s : State) : State := setReg k (incRowByte (getReg s k)) s

/-- `IncCol(k, carry)`: the row register is `R[k - 1]` (R184). -/
def incCol (k : BitVec 3) (carry : Bool) (s : State) : State :=
  let col := (getReg s k).extractLsb' 0 6
  onlyIf (carry && colWraps col) (incRow (k - 1)) (setReg k (incColByte (getReg s k)) s)

/-- The triplet (A, B, C) displayed at column `c` of video-RAM row `y` (20_memory R75). -/
def tripletAt (s : State) (y : BitVec 5) (c : Nat) : Byte × Byte × Byte :=
  let col := BitVec.ofNat 6 c
  (vramRead s (planeAddr s.config s.cfg.blockOrigin 2 col y),
   vramRead s (planeAddr s.config s.cfg.blockOrigin 1 col y),
   vramRead s (planeAddr s.config s.cfg.blockOrigin 0 col y))

/-- A glyph slice of the charset ROM (R238): fixed by the launch, or the free value. -/
def glyphSlice (c : Config) (kind : CellKind) (code : Byte) (sl : Nat) : Byte :=
  lookupOr c.glyphAt (kind, code, sl) (Config.glyphSlice kind code sl)

end Sys2Proof.Machine
end

