-- ==== Sys2Proof/Machine/BusDecoder.lean ====
section
/-! DEFINITION. The bus decoder BD (40_bus_decoder): a combinational function of the CPU pins, and its nine outcomes
as operations that drive the decoder's lines. -/
namespace Sys2Proof.Machine

/-- What a meaning answers. -/
abbrev Result := Host.Outcome State Fault Refusal

/-- Chip enable (R141). -/
def chipEnable (c : Config) (p : CpuPins) : Bool := (p.iorq && (p.rd || p.wr)) && p.a.getLsbD c.ceAddrBit

/-- The decoder index `4*i2 + 2*i1 + i0` (R143). -/
def busIndex (c : Config) (p : CpuPins) : BitVec 3 :=
  BitVec.ofBool p.wr ++ BitVec.ofBool (p.a.getLsbD c.selHiBit) ++ BitVec.ofBool (p.a.getLsbD c.selLoBit)

/-- The one-hot decode `Y` (R144). -/
def decodeY (ce : Bool) (idx : BitVec 3) : Byte := if ce then 0xFF#8 ^^^ (1#8 <<< idx.toNat) else 0xFF#8

/-- The remap of `Y` onto the six outputs through `WIRE` (R145, R146). -/
def remap (w : Wire) (y : Byte) : BusLines :=
  { y := y, as := y.getLsbD w.as, ds := y.getLsbD w.ds, rw := y.getLsbD w.rw, kbd := y.getLsbD w.kbd
    tapeRd := y.getLsbD w.tapeRd, tapeWr := y.getLsbD w.tapeWr }

/-- `BusDecode` (R140). -/
def busDecode (c : Config) (p : CpuPins) : BusLines := remap c.wire (decodeY (chipEnable c p) (busIndex c p))

/-- Drive the decoder's lines for a selector. -/
def driveLines (ce : Bool) (idx : BitVec 3) (s : State) : State := { s with bus := remap s.config.wire (decodeY ce idx) }

/-- BD.IDLE (R147): the index does not matter. -/
def execBdIdle (idx : BitVec 3) (s : State) : Result := .next (live (driveLines false idx) s)

/-- BD.KBD (R148). -/
def execBdKbd (s : State) : Result := .next (live (driveLines true 0) s)

/-- BD.TAPE_RD (R149). -/
def execBdTapeRd (s : State) : Result := .next (live (driveLines true 1) s)

/-- BD.VDP_DS (R150). -/
def execBdVdpDs (s : State) : Result := .next (live (driveLines true 2) s)

/-- BD.NC3 (R152). -/
def execBdNc3 (s : State) : Result := .next (live (driveLines true 3) s)

/-- BD.VDP_AS (R151). -/
def execBdVdpAs (s : State) : Result := .next (live (driveLines true 4) s)

/-- BD.TAPE_WR (R151). -/
def execBdTapeWr (s : State) : Result := .next (live (driveLines true 5) s)

/-- BD.VDP_RW (R151). -/
def execBdVdpRw (s : State) : Result := .next (live (driveLines true 6) s)

/-- BD.NC7 (R152). -/
def execBdNc7 (s : State) : Result := .next (live (driveLines true 7) s)

end Sys2Proof.Machine
end

