-- ==== Sys2Proof/Machine/Commands.lean ====
section
/-! DEFINITION. The VDP commands (42_vdp_commands). Each effect is one function on the state; `dispatch` (R180) is
what the bus interface calls with the byte in `R[0]`, and each operation of the table runs its effect alone. -/
namespace Sys2Proof.Machine

/-! ### Effects -/

/-- Auto-increment of the memory pointer's column, if bit I is set (R184, R186). -/
def incMp (inc carry : Bool) : State → State := onlyIf inc (incCol 7 carry)

/-- Auto-increment of the auxiliary pointer's column, without carry (R186). -/
def incAp (inc : Bool) : State → State := onlyIf inc (incCol 5 false)

/-- Store register `k` in plane `j` under a pointer (R187). -/
def storeReg (p : Ptr) (j : BitVec 2) (k : BitVec 3) (s : State) : State :=
  vramWrite (ptrAddr s.config p j) (getReg s k) s

/-- Load register `k` from plane `j` under a pointer (R188). -/
def loadReg (p : Ptr) (j : BitVec 2) (k : BitVec 3) (s : State) : State :=
  setReg k (vramRead s (ptrAddr s.config p j)) s

/-- KRF.W (R187); the addresses are computed before the increment. -/
def krfW (inc : Bool) (s : State) : State :=
  let p := mp s
  incMp inc false (storeReg p 2 3 (storeReg p 1 2 (storeReg p 0 1 s)))

/-- KRF.R (R188). -/
def krfR (inc : Bool) (s : State) : State :=
  let p := mp s
  incMp inc false (loadReg p 2 3 (loadReg p 1 2 (loadReg p 0 1 s)))

/-- KRG.W (R189). -/
def krgW (inc : Bool) (s : State) : State :=
  let p := mp s
  incMp inc false (storeReg p 1 2 (storeReg p 0 1 s))

/-- KRG.R (R190). -/
def krgR (inc : Bool) (s : State) : State :=
  let p := mp s
  incMp inc false (loadReg p 1 2 (loadReg p 0 1 s))

/-- OCT.W at MP (R191). -/
def octWMp (inc : Bool) (s : State) : State := incMp inc true (storeReg (mp s) 0 1 s)

/-- OCT.R at MP (R192). -/
def octRMp (inc : Bool) (s : State) : State := incMp inc true (loadReg (mp s) 0 1 s)

/-- OCT.W at AP (R193). -/
def octWAp (inc : Bool) (s : State) : State := incAp inc (storeReg (ap s) 0 1 s)

/-- OCT.R at AP (R194). -/
def octRAp (inc : Bool) (s : State) : State := incAp inc (loadReg (ap s) 0 1 s)

/-- INY (R196). -/
def iny (s : State) : State := incRow 6 s

/-- IND.W (R197). -/
def indW (r : BitVec 3) (s : State) : State := recompute (setIReg r (getReg s 1) s)

/-- IND.R (R198). -/
def indR (r : BitVec 3) (s : State) : State := setReg 1 (getIReg s r) s

/-- `UNIMPL(c)`: a logged no-operation (R201). -/
def unimpl (c : Byte) (s : State) : State := logEvent (.unimplementedCommand c) s

/-- `UNKNOWN(c)` (R202). -/
def unknown (c : Byte) (s : State) : State := raise (.unknownOpcode c) s

/-- `CmdClass`, the reference table (30_encoding R107). -/
def cmdClassRef (op : BitVec 4) : CmdClass :=
  match op.toNat with
  | 0x0 => .implemented .block
  | 0x3 => .implemented .octet
  | 0x8 => .implemented .indirect
  | 0xB => .implemented .nextRow
  | 0xA | 0xC => .unrecognised
  | _ => .unimplemented

/-- `CmdClass`, total on the sixteen opcodes (00_scope R5, U3; log entry 15). -/
def cmdClass (c : Config) (op : BitVec 4) : CmdClass := lookupOr c.cmdClassAt op (cmdClassRef op)

/-- The commands of a group by their parameter bits, tested in the order of R109 (30_encoding R106, R108). -/
def runGroup (g : CommandGroup) (c : Byte) (s : State) : State :=
  let p := cmdP c
  let inc := p.getLsbD 0
  match g with
  | .block =>
    if p.getLsbD 2 then unimpl c s
    else if p.getLsbD 1 then (if p.getLsbD 3 then krgR inc s else krgW inc s)
    else (if p.getLsbD 3 then krfR inc s else krfW inc s)
  | .octet =>
    if p.getLsbD 1 then unimpl c s
    else if p.getLsbD 3 then (if p.getLsbD 2 then octRAp inc s else octRMp inc s)
    else (if p.getLsbD 2 then octWAp inc s else octWMp inc s)
  | .indirect => if p.getLsbD 3 then indR (p.extractLsb' 0 3) s else indW (p.extractLsb' 0 3) s
  | .nextRow => iny s

/-- `Dispatch(c)` (R180). -/
def dispatch (c : Byte) (s : State) : State :=
  match cmdClass s.config (cmdOp c) with
  | .implemented g => runGroup g c s
  | .unimplemented => unimpl c s
  | .unrecognised => unknown c s

/-! ### Meanings -/

/-- KRF.W (R187). -/
def execKrfW (inc : Bool) (s : State) : Result := .next (live (krfW inc) s)

/-- KRF.R (R188). -/
def execKrfR (inc : Bool) (s : State) : Result := .next (live (krfR inc) s)

/-- KRG.W (R189). -/
def execKrgW (inc : Bool) (s : State) : Result := .next (live (krgW inc) s)

/-- KRG.R (R190). -/
def execKrgR (inc : Bool) (s : State) : Result := .next (live (krgR inc) s)

/-- OCT.W.MP (R191). -/
def execOctWMp (inc : Bool) (s : State) : Result := .next (live (octWMp inc) s)

/-- OCT.W.AP (R193). -/
def execOctWAp (inc : Bool) (s : State) : Result := .next (live (octWAp inc) s)

/-- OCT.R.MP (R192). -/
def execOctRMp (inc : Bool) (s : State) : Result := .next (live (octRMp inc) s)

/-- OCT.R.AP (R194). -/
def execOctRAp (inc : Bool) (s : State) : Result := .next (live (octRAp inc) s)

/-- IND.W (R197). -/
def execIndW (r : BitVec 3) (s : State) : Result := .next (live (indW r) s)

/-- IND.R (R198). -/
def execIndR (r : BitVec 3) (s : State) : Result := .next (live (indR r) s)

/-- INY (R196); the parameter bits are ignored. -/
def execIny (_p : BitVec 4) (s : State) : Result := .next (live iny s)

/-- UNIMPL.CLR (R201): `op = 0x0` with `p[2] = 1`. -/
def execUnimplClr (p3 p1 p0 : Bool) (s : State) : Result :=
  .next (live (unimpl (cmdByte 0x0 (nibble p3 true p1 p0))) s)

/-- UNIMPL.KRE (R201). -/
def execUnimplKre (p : BitVec 4) (s : State) : Result := .next (live (unimpl (cmdByte 0x1 p)) s)

/-- UNIMPL.KRV (R201). -/
def execUnimplKrv (p : BitVec 4) (s : State) : Result := .next (live (unimpl (cmdByte 0x2 p)) s)

/-- UNIMPL.OCT (R201): `op = 0x3` with `p[1] = 1`. -/
def execUnimplOct (p3 p2 p0 : Bool) (s : State) : Result :=
  .next (live (unimpl (cmdByte 0x3 (nibble p3 p2 true p0))) s)

/-- UNIMPL.KRC (R201). -/
def execUnimplKrc (p : BitVec 4) (s : State) : Result := .next (live (unimpl (cmdByte 0x4 p)) s)

/-- UNIMPL.KRL (R201). -/
def execUnimplKrl (p : BitVec 4) (s : State) : Result := .next (live (unimpl (cmdByte 0x5 p)) s)

/-- UNIMPL.EXP (R201). -/
def execUnimplExp (p : BitVec 4) (s : State) : Result := .next (live (unimpl (cmdByte 0x6 p)) s)

/-- UNIMPL.CMP (R201). -/
def execUnimplCmp (p : BitVec 4) (s : State) : Result := .next (live (unimpl (cmdByte 0x7 p)) s)

/-- UNIMPL.NOP (R201). -/
def execUnimplNop (p : BitVec 4) (s : State) : Result := .next (live (unimpl (cmdByte 0x9 p)) s)

/-- UNKNOWN.A (R202): the fault is raised; the state with its mark is the next state. -/
def execUnknownA (p : BitVec 4) (s : State) : Result := .next (live (unknown (cmdByte 0xA p)) s)

/-- UNKNOWN.C (R202). -/
def execUnknownC (p : BitVec 4) (s : State) : Result := .next (live (unknown (cmdByte 0xC p)) s)

/-- UNIMPL.MVB (R201). -/
def execUnimplMvb (p : BitVec 4) (s : State) : Result := .next (live (unimpl (cmdByte 0xD p)) s)

/-- UNIMPL.MVD (R201). -/
def execUnimplMvd (p : BitVec 4) (s : State) : Result := .next (live (unimpl (cmdByte 0xE p)) s)

/-- UNIMPL.MVT (R201). -/
def execUnimplMvt (p : BitVec 4) (s : State) : Result := .next (live (unimpl (cmdByte 0xF p)) s)

end Sys2Proof.Machine
end

