-- ==== Sys2Proof/Machine/VdpBus.lean ====
section
/-! DEFINITION. The VDP external-bus interface (41_vdp_bus_interface): the four edge operations and the bus step. -/
namespace Sys2Proof.Machine

/-- VB.AS_FALL: latch the address byte, the `DS` level and the execute bit (R162). -/
def asFall (ad : Byte) (ds : Level) (s : State) : State :=
  { s with addrLatch := ad, dsLatch := ds, xqLatch := ad.getLsbD 3 }

/-- The direct register the latched address selects (R104). -/
def latchedReg (s : State) : BitVec 3 := s.addrLatch.extractLsb' 0 3

/-- The value a read of the selected register drives: register 0 is the placeholder 0x00 (R163, 10_state R22). -/
def busReadValue (s : State) : Byte := if latchedReg s = 0 then 0x00 else getReg s (latchedReg s)

/-- VB.DS_FALL: a register read, answered only with `RW = 1` and address bit 4 clear (R163). A read of register 0 is
logged (R336). -/
def dsFall (rw : Level) (s : State) : State :=
  if rw && !s.addrLatch.getLsbD 4 then
    onlyIf (latchedReg s == 0) (logEvent .r0PlaceholderRead) { s with adOut := busReadValue s, adDriven := true }
  else s

/-- VB.RW_FALL: a register write, stored only with address bit 5 set (R165). -/
def rwFall (ad : Byte) (s : State) : State := onlyIf (s.addrLatch.getLsbD 5) (setReg (latchedReg s) ad) s

/-- VB.RW_RISE: execute the command in `R[0]` if the latched address asked for it (R166). -/
def rwRise (s : State) : State := onlyIf s.xqLatch (dispatch (getReg s 0)) s

/-- The edge detectors follow the lines (R161, last line). -/
def latchEdges (s : State) : State := { s with prevAs := s.pins.as, prevDs := s.pins.ds, prevRw := s.pins.rw }

/-- `BusStep` on the pin bus: four edge tests in order, then the edge detectors (R161). -/
def busStep (s : State) : State :=
  liveSeq
    [fun s => onlyIf (s.prevAs && !s.pins.as) (asFall s.pins.ad s.pins.ds) s,
     fun s => onlyIf (s.prevDs && !s.pins.ds) (dsFall s.pins.rw) s,
     fun s => onlyIf (s.prevRw && !s.pins.rw) (rwFall s.pins.ad) s,
     fun s => onlyIf (!s.prevRw && s.pins.rw) rwRise s,
     latchEdges] s

/-- VB.AS_FALL (R162). -/
def execVbAsFall (ad : Byte) (ds : Level) (s : State) : Result := .next (live (asFall ad ds) s)

/-- VB.DS_FALL (R163). -/
def execVbDsFall (rw : Level) (s : State) : Result := .next (live (dsFall rw) s)

/-- VB.RW_FALL (R165). -/
def execVbRwFall (ad : Byte) (s : State) : Result := .next (live (rwFall ad) s)

/-- VB.RW_RISE (R166). -/
def execVbRwRise (s : State) : Result := .next (live rwRise s)

end Sys2Proof.Machine
end

