-- ==== Sys2Proof/Machine/Raster.lean ====
section
/-! DEFINITION. The raster and render pipeline (43_vdp_raster). -/
namespace Sys2Proof.Machine

/-- Forty values as a row of slots. -/
def row40 {α : Type} (l : List α) (h : l.length = 40) : Vector α 40 := ⟨l.toArray, by simpa using h⟩

/-! ### Row reload -/

/-- The delimiter latch that runs along a row (R228, R231). -/
structure DelimLatch where
  bg : BitVec 3
  underline : Bool
  conceal : Bool
  insert : Bool
  deriving DecidableEq, Repr

/-- The latch at column 0 of every row (R228). -/
def clearLatch : DelimLatch := { bg := 0, underline := false, conceal := false, insert := false }

/-- A field of three bits. -/
def read3 {n : Nat} (f : Bits3 n) (w : BitVec n) : BitVec 3 :=
  BitVec.ofBool (w.getLsbD f.hi) ++ BitVec.ofBool (w.getLsbD f.mid) ++ BitVec.ofBool (w.getLsbD f.lo)

/-- The cell triplet as one word, `A` highest (30_encoding R118). -/
def tripletWord (a b c : Byte) : BitVec 24 := a ++ b ++ c

/-- The kind of a cell, from its mode byte (30_encoding R118, R119). -/
def cellKind (l : CellLayout) (b : Byte) : CellKind :=
  if read3 l.kind b = l.delimPattern then .delim
  else if b.getLsbD l.graphic then .graphic else .alpha

/-- The latch after a cell: only a delimiter changes it (R230, R231). -/
def latchAfter (l : CellLayout) (a b c : Byte) (latch : DelimLatch) : DelimLatch :=
  let w := tripletWord a b c
  if cellKind l b = .delim then
    { bg := read3 l.bg w, underline := w.getLsbD l.underline, conceal := w.getLsbD l.conceal
      insert := w.getLsbD l.insert }
  else latch

/-- The cell of `DecodeCell(A, B, C, latch)`: a delimiter already shows its own latch (R230). -/
def decodeCell (l : CellLayout) (a b c : Byte) (latch : DelimLatch) : RowCell :=
  let w := tripletWord a b c
  let now := latchAfter l a b c latch
  let isDelim := cellKind l b == .delim
  { a := a, b := b, c := c, kind := cellKind l b, fg := read3 l.fg w, bg := now.bg
    underline := now.underline, conceal := now.conceal, insert := now.insert
    dw := !isDelim && w.getLsbD l.dw, dh := !isDelim && w.getLsbD l.dh }

/-- A row of triplets (A, B, C) decoded from left to right (R228). -/
def decodeRow (l : CellLayout) : DelimLatch → List (Byte × Byte × Byte) → List RowCell
  | _, [] => []
  | latch, (a, b, c) :: rest => decodeCell l a b c latch :: decodeRow l (latchAfter l a b c latch) rest

/-- `decodeRow` gives one cell per triplet. -/
theorem decodeRow_length (l : CellLayout) (latch : DelimLatch) (ts : List (Byte × Byte × Byte)) :
    (decodeRow l latch ts).length = ts.length := by
  induction ts generalizing latch with
  | nil => rfl
  | cons t ts ih => simp [decodeRow, ih]

/-- The forty triplets of video-RAM row `y` (R228). -/
def rowTriplets (s : State) (y : BitVec 5) : List (Byte × Byte × Byte) := (List.range 40).map (tripletAt s y)

/-- The row buffer loaded from video-RAM row `y` (R228). -/
def reloadedRow (s : State) (y : BitVec 5) : Vector RowCell 40 :=
  row40 (decodeRow s.config.layout clearLatch (rowTriplets s y)) (by simp [decodeRow_length, rowTriplets])

/-- `DisplayRow(k)` (R229). -/
def displayRow (origin : BitVec 5) (k : Nat) : BitVec 5 :=
  BitVec.ofNat 5 (if origin.toNat + (k - 1) > 31 then origin.toNat + (k - 1) - 24 else origin.toNat + (k - 1))

/-- The buffer load of `RowReload(k)`, after the mode test (R228). -/
def loadRow (k : Nat) (s : State) : State :=
  let y := displayRow s.cfg.originRow k
  { s with rowY := y, rowbuf := reloadedRow s y }

/-- `RowReload(k)` (R227, R228): an unaccepted character mode faults and nothing is loaded. -/
def rowReload (k : Nat) (s : State) : State :=
  match charModeFault s.cfg.charMode with
  | none => loadRow k s
  | some f => raise f s

/-- `ServiceRow()` (R232). -/
def serviceRow (s : State) : State := { s with quad := Vector.replicate 40 .none }

/-! ### Quadrants -/

/-- `QuadNext(dw, dh, left, above)`, the ten lines of R234. -/
def quadNext (dw dh : Bool) (left above : Quadrant) : Quadrant :=
  match dw, dh with
  | true, true =>
    if left = .dsTL then .dsTR
    else if left = .dsBL then .dsBR
    else if above = .dsTL then .dsBL
    else if above = .dsTR then .none
    else .dsTL
  | true, false => if left = .dwL then .dwR else .dwL
  | false, true => if above = .dhT then .dhB else .dhT
  | false, false => .none

/-- The pass from left to right over (cell, quadrant above) pairs (R233). -/
def quadRow : Quadrant → List (RowCell × Quadrant) → List Quadrant
  | _, [] => []
  | left, (cell, above) :: rest =>
    quadNext cell.dw cell.dh left above :: quadRow (quadNext cell.dw cell.dh left above) rest

/-- `quadRow` gives one quadrant per pair. -/
theorem quadRow_length (left : Quadrant) (cs : List (RowCell × Quadrant)) : (quadRow left cs).length = cs.length := by
  induction cs generalizing left with
  | nil => rfl
  | cons t ts ih => simp [quadRow, ih]

/-- `QuadrantPass()` (R233). -/
def quadrantPass (s : State) : State :=
  { s with quad := row40 (quadRow .none (s.rowbuf.toList.zip s.quad.toList)) (by simp [quadRow_length]) }

/-! ### Cell render -/

/-- `SliceIndex(q, s)` (R237). -/
def sliceIndex (q : Quadrant) (sl : Nat) : Nat :=
  match q with
  | .none | .dwL | .dwR => sl
  | .dhT | .dsTL | .dsTR => sl / 2
  | .dhB | .dsBL | .dsBR => 5 + sl / 2

/-- `PixelIndex(q, p)` (R240). -/
def pixelIndex (q : Quadrant) (p : Nat) : Nat :=
  match q with
  | .none | .dhT | .dhB => p
  | .dwL | .dsTL | .dsBL => p / 2
  | .dwR | .dsTR | .dsBR => 4 + p / 2

/-- `Glyph(cell, sl)` (R238). -/
def glyph (c : Config) (cell : RowCell) (sl : Nat) : Byte :=
  if cell.kind = .delim then 0x00 else glyphSlice c cell.kind cell.c sl

/-- Pixel `j` of a glyph slice, 0 the leftmost (30_encoding R122). -/
def glyphPixel (c : Config) (g : Byte) (j : Nat) : Bool := if c.pixLsbLeft then g.getLsbD j else g.getLsbD (7 - j)

/-- Slot `c` of the row buffer. -/
def cellAt (s : State) (c : Nat) : RowCell := s.rowbuf[c]?.getD blankCell

/-- Slot `c` of the quadrant buffer. -/
def quadAt (s : State) (c : Nat) : Quadrant := s.quad[c]?.getD .none

/-- The glyph bits a cell shows on slice `sl`, cursor applied (R236). -/
def shownGlyph (s : State) (c sl : Nat) : Byte :=
  let g := glyph s.config (cellAt s c) (sliceIndex (quadAt s c) sl)
  if cursorHere s c then g ^^^ 0xFF else g

/-- The colour of pixel `p` of cell `c` on slice `sl` (R236). -/
def pixelColour (s : State) (c sl p : Nat) : BitVec 3 :=
  if glyphPixel s.config (shownGlyph s c sl) (pixelIndex (quadAt s c) p) then (cellAt s c).fg else (cellAt s c).bg

/-- Write the pixels `n - 1, …, 0` of a cell, whose colours are fixed (R236). -/
def writePixels (x al : Nat) (colour : Nat → BitVec 3) : Nat → State → State
  | 0, s => s
  | n + 1, s => fbWrite (x + n) al (colour n) (writePixels x al colour n s)

/-- `RenderCell(c, s, al)` (R236): exactly 8 bytes. -/
def renderCell (c sl al : Nat) (s : State) : State := writePixels (c * 8) al (pixelColour s c sl) 8 s

/-! ### The raster step -/

/-- The active line `al`, if the raster is in one of the 250 (R220, R221). -/
def activeLine (s : State) : Option Nat :=
  if s.config.vActiveStart ≤ s.line ∧ s.line - s.config.vActiveStart < 250 then some (s.line - s.config.vActiveStart)
  else none

/-- The display column whose cell starts at this tick, if any (R220, R221). -/
def startingCell (c : Config) (tick : Nat) : Option Nat :=
  if c.hActiveStart ≤ tick ∧ (tick - c.hActiveStart) % c.ticksPerCell = 0 ∧ (tick - c.hActiveStart) / c.ticksPerCell < 40
  then some ((tick - c.hActiveStart) / c.ticksPerCell) else none

/-- Reload and quadrant pass at the first tick of a text row's first line (R226, R233). -/
def reloadStep (k sl : Nat) (s : State) : State :=
  onlyIf (sl == 0 && s.tickInLine == 0) (liveSeq [rowReload k, quadrantPass]) s

/-- The cell that starts at this tick, if any (R220). -/
def cellStep (sl al : Nat) (s : State) : State :=
  match startingCell s.config s.tickInLine with
  | some c => renderCell c sl al s
  | none => s

/-- What a raster step does at its position, before sync and advance (R220). -/
def rasterAct (s : State) : State :=
  match activeLine s with
  | none => s
  | some al =>
    if al / 10 = 0 then onlyIf (al % 10 == 0 && s.tickInLine == 0) serviceRow s
    else liveSeq [reloadStep (al / 10) (al % 10), cellStep (al % 10) al] s

/-- `SyncOut()` (R224, R225). -/
def syncOut (s : State) : State := { s with vs := vsLevel s.line, hs := hsLevel s.config s.tickInLine }

/-- `Advance()` (R222). -/
def advance (s : State) : State :=
  if ticksPerLine s.config s.cfg.linesPerFrame ≤ s.tickInLine + 1 then
    { s with tickInLine := 0, line := if s.cfg.linesPerFrame ≤ s.line + 1 then 0 else s.line + 1 }
  else { s with tickInLine := s.tickInLine + 1 }

/-- `RasterStep()` (R220). -/
def rasterStep (s : State) : State := liveSeq [rasterAct, syncOut, advance] s

/-! ### Meanings -/

/-- RA.TICK (R220). -/
def execRaTick (s : State) : Result := .next (live rasterStep s)

/-- RA.SERVICE_ROW (R232). -/
def execRaServiceRow (s : State) : Result := .next (live serviceRow s)

/-- RA.ROW_RELOAD, `k` in 1..24 (R228). -/
def execRaRowReload (k : Nat) (s : State) : Result :=
  if textRow k then .next (live (rowReload k) s) else .refused (.outsideDomain "RA.ROW_RELOAD")

/-- RA.QUADRANT (R233). -/
def execRaQuadrant (s : State) : Result := .next (live quadrantPass s)

/-- RA.CELL, `c` in 0..39, `s` in 0..9, `al` in 10..249 (R236). -/
def execRaCell (c sl al : Nat) (s : State) : Result :=
  if cellInWindow c sl al then .next (live (renderCell c sl al) s) else .refused (.outsideDomain "RA.CELL")

/-- RA.ADVANCE (R222). -/
def execRaAdvance (s : State) : Result := .next (live advance s)

/-- RA.SYNC (R224, R225). -/
def execRaSync (s : State) : Result := .next (live syncOut s)

end Sys2Proof.Machine
end

