-- ==== Sys2Proof/Machine/TapeCodec.lean ====
section
/-! DEFINITION. The cassette codec (44_tape_codec): header parsing on insert, and the pulse decoder. -/
namespace Sys2Proof.Machine

/-- Change the codec. -/
def onTape (f : Tape → Tape) (s : State) : State := { s with tape := f s.tape }

/-! ### Header parsing -/

/-- `tape.size` (10_state R43). -/
def tapeSize (t : Tape) : Nat := t.image.length

/-- Byte `i` of an image. -/
def imageByte (bytes : List Byte) (i : Nat) : Byte := bytes.getD i 0

/-- A little-endian 16-bit field (20_memory R80). -/
def le16 (bytes : List Byte) (i : Nat) : BitVec 16 := imageByte bytes (i + 1) ++ imageByte bytes i

/-- `ParseMeta(bytes)` (R271). -/
def parseMeta (bytes : List Byte) : TapeMeta :=
  { format := imageByte bytes 10
    name := Vector.ofFn fun i : Fin 6 => imageByte bytes (11 + i.val)
    version := imageByte bytes 17
    startLine := Vector.ofFn fun i : Fin 5 => imageByte bytes (18 + i.val)
    protection := imageByte bytes 23
    checkPos := le16 bytes 24
    startAddr := le16 bytes 26
    dataLen := le16 bytes 28
    checksum := le16 bytes 30 }

/-- Ten bytes of one value from an offset (R126). -/
def tenBytes (bytes : List Byte) (i : Nat) (v : Byte) : Bool := (List.range 10).all fun j => imageByte bytes (i + j) == v

/-- The first failing check of an insert, in the order of R270; none if the image is valid. -/
def insertCheck (bytes : List Byte) : Option InsertError :=
  if bytes.length < 42 then some .tooShort
  else if !tenBytes bytes 0 0xD3 then some .badLeadingPreamble
  else if !tenBytes bytes 32 0xD6 then some .badTrailingPreamble
  else if bytes.length < 32 + (parseMeta bytes).dataLen.toNat + 10 then some .lengthExceedsImage
  else none

/-- `CodecReset()` (R274). -/
def codecReset (t : Tape) : Tape :=
  { t with state := .awaitSync1, ring := [], curByte := 0, bitCount := 0, drained := 0 }

/-- The tape with a valid image inserted (R270). -/
def loadTape (bytes : List Byte) (t : Tape) : Tape :=
  codecReset { t with image := bytes, info := parseMeta bytes, insertError := none }

/-- `Insert(bytes)` and its boolean (R270, 60_exceptions R334). -/
def insert (bytes : List Byte) (s : State) : State :=
  match insertCheck bytes with
  | none => setResult (.inserted true) (onTape (loadTape bytes) s)
  | some e => setResult (.inserted false) (onTape (fun t => { t with insertError := some e }) s)

/-- `Eject()` (R273). -/
def eject (s : State) : State := onTape (fun t => codecReset { t with image := [], info := blankMeta }) s

/-! ### The decode states -/

/-- `Push(d)` (R282). -/
def push (c : Config) (d : Nat) (t : Tape) : Tape :=
  { t with ring := (if t.ring.length = c.ringCap then t.ring.drop 1 else t.ring) ++ [d] }

/-- `Shift(k)` (R283). -/
def shift (k : Nat) (t : Tape) : Tape := { t with ring := t.ring.drop k }

/-- `AddBit(b)` (R288). -/
def addBit (b : Bool) (t : Tape) : Tape :=
  let byte := t.curByte ||| ((if b then 1#8 else 0#8) <<< t.bitCount)
  if t.bitCount + 1 = 8 then
    { t with curByte := byte, bitCount := 8, decoded := t.decoded ++ [byte], state := .awaitSync1 }
  else { t with curByte := byte, bitCount := t.bitCount + 1 }

/-- The search of `StepSync()`: the ring after it, and whether the synchro was found (R286). -/
def syncSearch (c : Config) : List Nat → List Nat × Bool
  | a :: b :: rest => if isLong c a && isLong c b then (rest, true) else syncSearch c (b :: rest)
  | ring => (ring, false)

/-- `StepSync()` (R286). -/
def stepSync (c : Config) (t : Tape) : Tape :=
  let found := syncSearch c t.ring
  if found.2 then { t with ring := found.1, state := .headerBits, curByte := 0, bitCount := 0 }
  else { t with ring := found.1 }

/-- What the codec does with the ring it holds: which row of F-PULSE is selected (R281, R287). -/
inductive PulseOp where
  | sync | bit0 | bit1 | err | wait | drain | notimpl | inert
  deriving DecidableEq, Repr

/-- The selection, by state and ring (R281, R286, R287, R290); an empty ring holds nothing to drain. -/
def selectPulse (c : Config) (t : Tape) : PulseOp :=
  match t.state with
  | .awaitSync1 => .sync
  | .headerBits =>
    if frontLongPair c t.ring then .bit0
    else if frontFourShort c t.ring then .bit1
    else if 4 ≤ t.ring.length then .err else .wait
  | .error => if t.ring = [] then .wait else .drain
  | .awaitSync2 => .notimpl
  | .payload => .notimpl
  | .finished => .inert

/-- TP.SYNC (R286). -/
def pulseSync (s : State) : State := onTape (stepSync s.config) s

/-- TP.BIT0 (R287). -/
def pulseBit0 (s : State) : State := onTape (fun t => addBit false (shift 2 t)) s

/-- TP.BIT1 (R287). -/
def pulseBit1 (s : State) : State := onTape (fun t => addBit true (shift 4 t)) s

/-- TP.ERR (R287). -/
def pulseErr (s : State) : State :=
  onTape (fun t => { t with state := .error, drained := 0 }) (logEvent (.tapeDecodeError s.tape.ring) s)

/-- The codec after one drained pulse (R290). -/
def drainOne (c : Config) (t : Tape) : Tape :=
  { shift 1 t with
      drained := t.drained + 1
      state := if c.errorDrainN ≤ t.drained + 1 then .finished else t.state }

/-- TP.DRAIN (R290). -/
def pulseDrain (s : State) : State :=
  onTape (drainOne s.config) (logEvent (.tapeDrain (s.tape.ring.headD 0)) s)

/-- TP.NOTIMPL (R281). -/
def pulseNotimpl (s : State) : State := raise (.notImplementedTapeState s.tape.state) s

/-- The selected pulse operation. -/
def runPulse (s : State) : State :=
  match selectPulse s.config s.tape with
  | .sync => pulseSync s
  | .bit0 => pulseBit0 s
  | .bit1 => pulseBit1 s
  | .err => pulseErr s
  | .drain => pulseDrain s
  | .notimpl => pulseNotimpl s
  | .wait | .inert => s

/-- Whether a toggle in this state pushes its sample (R281). -/
def pushesSample (st : TapeState) : Bool :=
  match st with
  | .awaitSync1 | .headerBits | .error => true
  | .awaitSync2 | .payload | .finished => false

/-- `Toggle(d)` (R281). -/
def toggle (d : Nat) (s : State) : State := runPulse (onlyIf (pushesSample s.tape.state) (onTape (push s.config d)) s)

/-- The codec counts the tick and follows the wire while `TAPE_WR` is low (R280). -/
def countAndLatch (tapeWr : Level) (d : Byte) (s : State) : State :=
  onTape (fun t =>
    { t with elapsed := t.elapsed + 1, wdLatch := if tapeWr then t.wdLatch else d.getLsbD s.config.tapeWdataBit }) s

/-- After a toggle the measure starts again (R280). -/
def restartMeasure (s : State) : State := onTape (fun t => { t with elapsed := 0, wdPrev := t.wdLatch }) s

/-- `TapeTick(svc, d)` (R280); only `svc.TAPE_WR` is looked at. -/
def tapeTick (tapeWr : Level) (d : Byte) (s : State) : State :=
  let s1 := countAndLatch tapeWr d s
  onlyIf (s1.tape.wdLatch != s1.tape.wdPrev) (liveSeq [toggle s1.tape.elapsed, restartMeasure]) s1

/-! ### Meanings -/

/-- TP.INSERT (R270): a host operation, not stopped by a fault mark (log entry 8). -/
def execTpInsert (image : List Byte) (s : State) : Result :=
  if image.length ≤ s.config.tapeMax then .next (insert image s) else .refused .imageTooLong

/-- TP.EJECT (R273). -/
def execTpEject (s : State) : Result := .next (eject s)

/-- TP.TICK (R280): `svc` is the service bus F-SVC, `TAPE_WR` its bit 2. -/
def execTpTick (svc : BitVec 3) (d : Byte) (s : State) : Result := .next (live (tapeTick (svc.getLsbD 2) d) s)

/-- A pulse operation happens when the codec selects it (log entry 11). -/
def ifSelected (op : PulseOp) (f : State → State) (s : State) : State :=
  onlyIf (selectPulse s.config s.tape == op) f s

/-- TP.SYNC (R286). -/
def execTpSync (s : State) : Result := .next (live (ifSelected .sync pulseSync) s)

/-- TP.BIT0 (R287). -/
def execTpBit0 (s : State) : Result := .next (live (ifSelected .bit0 pulseBit0) s)

/-- TP.BIT1 (R287). -/
def execTpBit1 (s : State) : Result := .next (live (ifSelected .bit1 pulseBit1) s)

/-- TP.ERR (R287). -/
def execTpErr (s : State) : Result := .next (live (ifSelected .err pulseErr) s)

/-- TP.DRAIN (R290). -/
def execTpDrain (s : State) : Result := .next (live (ifSelected .drain pulseDrain) s)

/-- TP.NOTIMPL (R281). -/
def execTpNotimpl (s : State) : Result := .next (live (ifSelected .notimpl pulseNotimpl) s)

/-- TP.INERT (R281): nothing. -/
def execTpInert (s : State) : Result := .next (live id s)

end Sys2Proof.Machine
end

