-- ==== Sys2Proof/Machine/System.lean ====
section
/-! DEFINITION. The VDP tick (41_vdp_bus_interface R160), the system tick and the run (45_system_tick R311, R316),
reset (70_reset R360) and the host's calls (R318 to R320). -/
namespace Sys2Proof.Machine

/-- What a VDP tick returns on the pin bus (R160, R168): `HS`, `VS`, `AM`, and `AD` while it is driven. -/
def returnPins (s : State) : State :=
  { s with pins := { s.pins with hs := s.hs, vs := s.vs, am := 0, ad := if s.adDriven then s.adOut else s.pins.ad } }

/-- `VdpTick` on the pin bus: bus step, raster step, pins out (R160). -/
def vdpTick (s : State) : State := liveSeq [busStep, rasterStep, returnPins] s

/-- "repeat RATIO times" (R311 step 5). -/
def vdpTicks : Nat → State → State
  | 0, s => s
  | n + 1, s => vdpTicks n (live vdpTick s)

/-! ### The steps of a system tick (R311); `cpu` is the record the CPU's tick returned -/

/-- Step 1: the record of this tick. -/
def takeCpu (p : CpuPins) (s : State) : State := { s with cpu := p }

/-- Step 2: a memory read is answered by the external router; a memory write goes out to it and changes nothing here
(R313, log entry 19). -/
def serveMemory (s : State) : State :=
  if s.cpu.mreq && s.cpu.rd then { dropMemAnswer s with cpu := { s.cpu with d := memAnswer s s.cpu.a } } else s

/-- Step 3: the decoder. -/
def decodeBus (s : State) : State := { s with bus := busDecode s.config s.cpu }

/-- Step 4: the VDP pin bus of this tick; nothing is driven yet. -/
def drivePins (s : State) : State :=
  { s with
      pins := { ad := s.cpu.d, as := s.bus.as, ds := s.bus.ds, rw := s.bus.rw, hs := s.hs, vs := s.vs, am := 0 }
      adDriven := false }

/-- Step 5: the VDP ticks. -/
def tickVdp (s : State) : State := vdpTicks s.config.ratio s

/-- Step 6: a VDP register read is folded into the CPU's data byte. -/
def foldVdp (s : State) : State := if s.adDriven then { s with cpu := { s.cpu with d := s.pins.ad } } else s

/-- Step 7: the keyboard's answer. -/
def foldKeyboard (s : State) : State :=
  if s.bus.kbd then s else { dropKeyAnswer s with cpu := { s.cpu with d := keyAnswer s s.cpu.a } }

/-- Step 8: the tape read path is not implemented (44_tape_codec R295). -/
def checkTapeRead (s : State) : State := if s.bus.tapeRd then s else raise .notImplementedTapeRead s

/-- Step 9: the codec. -/
def tickTape (s : State) : State := tapeTick s.bus.tapeWr s.cpu.d s

/-- Step 10: the interrupt lines (60_exceptions R340). -/
def driveInterrupts (s : State) : State :=
  { s with cpu := { s.cpu with int := interruptLevel s.config s.pins.vs, nmi := false } }

/-- Step 11: the tick is complete. -/
def commitTick (s : State) : State := { s with cpuPins := s.cpu, tickCount := s.tickCount + 1 }

/-- `SysTick()` with the CPU answering `p`; a raise ends it, and a halted block does nothing (R311). -/
def sysTickWith (p : CpuPins) (s : State) : State :=
  liveSeq
    [takeCpu p, serveMemory, decodeBus, drivePins, tickVdp, foldVdp, foldKeyboard, checkTapeRead, tickTape,
     driveInterrupts, commitTick] s

/-- `SysTick()`: the external CPU answers (R312). -/
def sysTick (s : State) : State := live (fun s => sysTickWith (cpuAnswer s) (dropCpuAnswer s)) s

/-! ### Run -/

/-- The debug hook, if installed, is asked once per iteration and may set the stop flag (R317). -/
def askHook (s : State) : State :=
  if s.outside.hookInstalled then { dropHookAnswer s with stopFlag := s.stopFlag || hookAnswer s } else s

/-- The loop of `Run` (R316); the host has its turn between two ticks (R321). -/
def runLoop : Nat → State → State
  | 0, s => s
  | n + 1, s => if s.stopFlag then s else runLoop n (hostTurn (askHook (sysTick s)))

/-- `Run(n)`; its result is the tick count (R316, R322). -/
def run (n : Nat) (s : State) : State :=
  let t := runLoop n { s with tickCount := 0 }
  setResult (.ticks t.tickCount) t

/-! ### Host calls -/

/-- The eight palette entries (R121, R318). -/
def palette : List (BitVec 32) := List.ofFn Config.palette

/-- The framebuffer export (R318). -/
def exportFb (nullSys : Bool) (s : State) : State :=
  setResult (if nullSys then .framebufferNull else .framebuffer fbWidth fbHeight 1 s.fb palette) s

/-! ### Meanings -/

/-- SYS.TICK (R311). -/
def execSysTick (s : State) : Result := .next (sysTick s)

/-- SYS.RUN (R316). -/
def execSysRun (n : Nat) (s : State) : Result := .next (run n s)

/-- SYS.RESET (R360). -/
def execSysReset (s : State) : Result := .next (resetFrom s)

/-- HOST.FB (R318). -/
def execHostFb (nullSys : Bool) (s : State) : Result := .next (exportFb nullSys s)

/-- HOST.INSERT (R319). -/
def execHostInsert (image : List Byte) (s : State) : Result :=
  if image.length ≤ s.config.tapeMax then .next (insert image s) else .refused .imageTooLong

/-- HOST.EJECT (R319). -/
def execHostEject (s : State) : Result := .next (eject s)

/-- HOST.RESET (R320). -/
def execHostReset (s : State) : Result := .next (resetFrom s)

end Sys2Proof.Machine
end

