-- ==== Sys2Proof/Machine/Script.lean ====
section
/-! DEFINITION. Bus scripts: the primitives OUT, IN, IDLE (30_encoding R129) and the pseudo-instructions over them
(R130), played by a scripted CPU. -/
namespace Sys2Proof.Machine

/-- The record of an OUT tick: `IORQ ∧ WR`, `A = port`, `D = v` (R129). -/
def outPins (port v : Byte) (s : State) : CpuPins :=
  { a := port.setWidth 16, d := v, mreq := false, iorq := true, rd := false, wr := true
    int := s.cpuPins.int, nmi := s.cpuPins.nmi }

/-- The record of an IN tick: `IORQ ∧ RD`, `A = port`; the CPU does not drive its data byte during a read, so the byte
on the pins stays (R129, 41_vdp_bus_interface R168). -/
def inPins (port : Byte) (s : State) : CpuPins :=
  { a := port.setWidth 16, d := s.cpuPins.d, mreq := false, iorq := true, rd := true, wr := false
    int := s.cpuPins.int, nmi := s.cpuPins.nmi }

/-- The record of an idle tick: all control lines deasserted; `A` and `D` are free values (R129, log entry 12). -/
def idleTickPins (s : State) : CpuPins :=
  { a := Config.idleAddr s.outside.free, d := Config.idleData s.outside.free, mreq := false, iorq := false, rd := false
    wr := false, int := s.cpuPins.int, nmi := s.cpuPins.nmi }

/-- One system tick of an OUT. -/
def outTick (port v : Byte) (s : State) : State := live (fun s => sysTickWith (outPins port v s) s) s

/-- One system tick of an IN. -/
def inTick (port : Byte) (s : State) : State := live (fun s => sysTickWith (inPins port s) s) s

/-- One idle system tick. -/
def idleTick (s : State) : State := live (fun s => sysTickWith (idleTickPins s) (bumpFree s)) s

/-- A tick repeated. -/
def repeatTick (f : State → State) : Nat → State → State
  | 0, s => s
  | n + 1, s => repeatTick f n (f s)

/-- `OUT port, v` (R129). -/
def busOut (port v : Byte) (t : BusTiming) (s : State) : State :=
  repeatTick idleTick t.idle (repeatTick (outTick port v) t.strobe s)

/-- The value read is the data byte of the record that the first IN tick returned (R129). -/
def takeRead (s : State) : State := setResult (.byteRead s.cpuPins.d) s

/-- `IN port` (R129): a tick that halts returns no record, so it reads nothing. -/
def busIn (port : Byte) (t : BusTiming) (s : State) : State :=
  repeatTick idleTick t.idle (repeatTick (inTick port) (t.strobe - 1) (live takeRead (inTick port s)))

/-- `IDLE k` (R129). -/
def busIdle (k : Nat) (s : State) : State := repeatTick idleTick k s

/-- The address byte of register `n` without execute: `0x20 + n` (R104, R130). -/
def addrByte (n : BitVec 3) : Byte := 0x20 + n.setWidth 8

/-- The address byte of register `n` with execute: `0x28 + n` (R104, R130). -/
def addrByteX (n : BitVec 3) : Byte := 0x28 + n.setWidth 8

/-- `WREG n, v` (R130). -/
def writeReg (n : BitVec 3) (v : Byte) (t1 t2 : BusTiming) (s : State) : State :=
  busOut s.config.portDs v t2 (busOut s.config.portAs (addrByte n) t1 s)

/-- `WREGX n, v` (R130). -/
def writeRegX (n : BitVec 3) (v : Byte) (t1 t2 : BusTiming) (s : State) : State :=
  busOut s.config.portDs v t2 (busOut s.config.portAs (addrByteX n) t1 s)

/-- `RREG n` (R130). -/
def readReg (n : BitVec 3) (t1 t2 : BusTiming) (s : State) : State :=
  busIn s.config.portDs t2 (busOut s.config.portAs (addrByte n) t1 s)

/-! ### Meanings -/

/-- OUT (R129). -/
def execOut (port v : Byte) (t : BusTiming) (s : State) : Result :=
  if t.wf then .next (busOut port v t s) else .refused (.outsideDomain "OUT")

/-- IN (R129). -/
def execInp (port : Byte) (t : BusTiming) (s : State) : Result :=
  if t.wf then .next (busIn port t s) else .refused (.outsideDomain "IN")

/-- IDLE (R129). -/
def execIdle (k : Nat) (s : State) : Result := .next (busIdle k s)

/-- WREG (R130). -/
def execWreg (n : BitVec 3) (v : Byte) (t1 t2 : BusTiming) (s : State) : Result :=
  if t1.wf && t2.wf then .next (writeReg n v t1 t2 s) else .refused (.outsideDomain "WREG")

/-- WREGX (R130). -/
def execWregx (n : BitVec 3) (v : Byte) (t1 t2 : BusTiming) (s : State) : Result :=
  if t1.wf && t2.wf then .next (writeRegX n v t1 t2 s) else .refused (.outsideDomain "WREGX")

/-- RREG (R130). -/
def execRreg (n : BitVec 3) (t1 t2 : BusTiming) (s : State) : Result :=
  if t1.wf && t2.wf then .next (readReg n t1 t2 s) else .refused (.outsideDomain "RREG")

/-- CMD (R130): `WREGX 0, c`. -/
def execCmd (c : Byte) (t1 t2 : BusTiming) (s : State) : Result :=
  if t1.wf && t2.wf then .next (writeRegX 0 c t1 t2 s) else .refused (.outsideDomain "CMD")

/-- KOUT (R130): `OUT P_TAPE, b`. -/
def execKout (b : Byte) (t : BusTiming) (s : State) : Result :=
  if t.wf then .next (busOut s.config.portTape b t s) else .refused (.outsideDomain "KOUT")

end Sys2Proof.Machine
end

