-- ==== Sys2Proof/Machine/Dispatch.lean ====
section
/-! DEFINITION. `exec`: one arm per row of spec/opcode_table.json, each a direct call of its meaning. -/
namespace Sys2Proof.Machine

def exec (i : Instr) (s : State) : Host.Outcome State Fault Refusal :=
  match i with
  | .bdIdle idx => Sys2Proof.Machine.execBdIdle idx s
  | .bdKbd => Sys2Proof.Machine.execBdKbd s
  | .bdTapeRd => Sys2Proof.Machine.execBdTapeRd s
  | .bdVdpDs => Sys2Proof.Machine.execBdVdpDs s
  | .bdNc3 => Sys2Proof.Machine.execBdNc3 s
  | .bdVdpAs => Sys2Proof.Machine.execBdVdpAs s
  | .bdTapeWr => Sys2Proof.Machine.execBdTapeWr s
  | .bdVdpRw => Sys2Proof.Machine.execBdVdpRw s
  | .bdNc7 => Sys2Proof.Machine.execBdNc7 s
  | .vbAsFall ad ds => Sys2Proof.Machine.execVbAsFall ad ds s
  | .vbDsFall rw => Sys2Proof.Machine.execVbDsFall rw s
  | .vbRwFall ad => Sys2Proof.Machine.execVbRwFall ad s
  | .vbRwRise => Sys2Proof.Machine.execVbRwRise s
  | .krfW inc => Sys2Proof.Machine.execKrfW inc s
  | .krfR inc => Sys2Proof.Machine.execKrfR inc s
  | .krgW inc => Sys2Proof.Machine.execKrgW inc s
  | .krgR inc => Sys2Proof.Machine.execKrgR inc s
  | .unimplClr p3 p1 p0 => Sys2Proof.Machine.execUnimplClr p3 p1 p0 s
  | .unimplKre p => Sys2Proof.Machine.execUnimplKre p s
  | .unimplKrv p => Sys2Proof.Machine.execUnimplKrv p s
  | .octWMp inc => Sys2Proof.Machine.execOctWMp inc s
  | .octWAp inc => Sys2Proof.Machine.execOctWAp inc s
  | .octRMp inc => Sys2Proof.Machine.execOctRMp inc s
  | .octRAp inc => Sys2Proof.Machine.execOctRAp inc s
  | .unimplOct p3 p2 p0 => Sys2Proof.Machine.execUnimplOct p3 p2 p0 s
  | .unimplKrc p => Sys2Proof.Machine.execUnimplKrc p s
  | .unimplKrl p => Sys2Proof.Machine.execUnimplKrl p s
  | .unimplExp p => Sys2Proof.Machine.execUnimplExp p s
  | .unimplCmp p => Sys2Proof.Machine.execUnimplCmp p s
  | .indW r => Sys2Proof.Machine.execIndW r s
  | .indR r => Sys2Proof.Machine.execIndR r s
  | .unimplNop p => Sys2Proof.Machine.execUnimplNop p s
  | .unknownA p => Sys2Proof.Machine.execUnknownA p s
  | .iny p => Sys2Proof.Machine.execIny p s
  | .unknownC p => Sys2Proof.Machine.execUnknownC p s
  | .unimplMvb p => Sys2Proof.Machine.execUnimplMvb p s
  | .unimplMvd p => Sys2Proof.Machine.execUnimplMvd p s
  | .unimplMvt p => Sys2Proof.Machine.execUnimplMvt p s
  | .raTick => Sys2Proof.Machine.execRaTick s
  | .raServiceRow => Sys2Proof.Machine.execRaServiceRow s
  | .raRowReload k => Sys2Proof.Machine.execRaRowReload k s
  | .raQuadrant => Sys2Proof.Machine.execRaQuadrant s
  | .raCell c sl al => Sys2Proof.Machine.execRaCell c sl al s
  | .raAdvance => Sys2Proof.Machine.execRaAdvance s
  | .raSync => Sys2Proof.Machine.execRaSync s
  | .tpInsert image => Sys2Proof.Machine.execTpInsert image s
  | .tpEject => Sys2Proof.Machine.execTpEject s
  | .tpTick svc d => Sys2Proof.Machine.execTpTick svc d s
  | .tpSync => Sys2Proof.Machine.execTpSync s
  | .tpBit0 => Sys2Proof.Machine.execTpBit0 s
  | .tpBit1 => Sys2Proof.Machine.execTpBit1 s
  | .tpErr => Sys2Proof.Machine.execTpErr s
  | .tpDrain => Sys2Proof.Machine.execTpDrain s
  | .tpNotimpl => Sys2Proof.Machine.execTpNotimpl s
  | .tpInert => Sys2Proof.Machine.execTpInert s
  | .sysTick => Sys2Proof.Machine.execSysTick s
  | .sysRun n => Sys2Proof.Machine.execSysRun n s
  | .sysReset => Sys2Proof.Machine.execSysReset s
  | .hostFb nullSys => Sys2Proof.Machine.execHostFb nullSys s
  | .hostInsert image => Sys2Proof.Machine.execHostInsert image s
  | .hostEject => Sys2Proof.Machine.execHostEject s
  | .hostReset => Sys2Proof.Machine.execHostReset s
  | .out port v t => Sys2Proof.Machine.execOut port v t s
  | .inp port t => Sys2Proof.Machine.execInp port t s
  | .idle k => Sys2Proof.Machine.execIdle k s
  | .wreg n v t1 t2 => Sys2Proof.Machine.execWreg n v t1 t2 s
  | .wregx n v t1 t2 => Sys2Proof.Machine.execWregx n v t1 t2 s
  | .rreg n t1 t2 => Sys2Proof.Machine.execRreg n t1 t2 s
  | .cmd c t1 t2 => Sys2Proof.Machine.execCmd c t1 t2 s
  | .kout b t => Sys2Proof.Machine.execKout b t s

end Sys2Proof.Machine
end

