-- ==== Sys2Proof/Machine/Step.lean ====
section
/-! DEFINITION. One step: the host has its turn (45_system_tick R321), then the next operation of the script runs; with
none left, the block does what it does by itself, a system tick (log entry 6). -/
namespace Sys2Proof.Machine

/-- What runs after the host's turn. -/
def runNext (s : State) : Host.Outcome State Fault Refusal :=
  match nextWord s with
  | none => exec .sysTick s
  | some w =>
    match decode w with
    | .ok i => exec i (dropWord s)
    | .error e => .refused (.undecodable e)

/-- One step. -/
def step (s : State) : Host.Outcome State Fault Refusal := runNext (hostTurn s)

/-- The state with the operation of a table row's bits placed where the next step looks (log entries 6 and 7). -/
def State.withFetchWord (s : State) (nbits w : Nat) : State := placeWord (tableWord nbits w) s

end Sys2Proof.Machine
end

