-- ==== Sys2Proof/Safety.lean ====
section
/-! DEFINITION. What counts as a good state and a good run, and the words the statements are made in: the invariant
of the block, the accepted configuration, and relations that say a rule's effect in the rule's own terms. -/
namespace Sys2Proof.Machine

/-- Law L3 of the transcoding function (20_memory R72): within a block, distinct display positions have distinct
offsets. L1, L2 and L4 hold by the type of `transcode`. -/
def TranscodeLaw (c : Config) : Prop :=
  ∀ (blk : BitVec 2) (col col' : BitVec 6) (row row' : BitVec 5), col.toNat < 40 → col'.toNat < 40 →
    transcode c blk col row = transcode c blk col' row' → col = col' ∧ row = row'

/-- A configuration the spec allows: the constraints of R5 and the laws of R72. -/
def Lawful (c : Config) : Prop := c.Constraints ∧ TranscodeLaw c

/-- The six outputs of the decoder in the order AS, DS, RW, KBD, TAPE_RD, TAPE_WR. -/
def sixLines (b : BusLines) : List Level := [b.as, b.ds, b.rw, b.kbd, b.tapeRd, b.tapeWr]

/-- The record of an I/O cycle on a port: a write, or else a read. -/
def portCycle (port : Byte) (wr : Bool) : CpuPins :=
  { a := port.setWidth 16, d := 0, mreq := false, iorq := true, rd := !wr, wr := wr, int := false, nmi := false }

/-- The script ports select the lines they are named after (30_encoding R129 with 40_bus_decoder R143, R146). -/
def PortsWired (c : Config) : Prop :=
  sixLines (busDecode c (portCycle c.portAs true)) = [false, true, true, true, true, true] ∧
  sixLines (busDecode c (portCycle c.portDs false)) = [true, false, true, true, true, true] ∧
  sixLines (busDecode c (portCycle c.portDs true)) = [true, true, false, true, true, true] ∧
  sixLines (busDecode c (portCycle c.portAs false)) = [true, true, true, false, true, true] ∧
  sixLines (busDecode c (portCycle c.portTape false)) = [true, true, true, true, false, true] ∧
  sixLines (busDecode c (portCycle c.portTape true)) = [true, true, true, true, true, false]

/-- The row reloads of this state raise no fault (43_vdp_raster R227). -/
def ModeAccepted (s : State) : Prop := s.cfg.charMode = 0 ∨ s.cfg.charMode = 4

/-- No bus cycle is in progress: the VDP last saw all three control lines high (10_state R33). -/
def BusIdle (s : State) : Prop := s.prevAs = true ∧ s.prevDs = true ∧ s.prevRw = true

/-- A state from which a bus script plays as R129 says: nothing halted, the ports wired, no cycle and no tape pulse in
progress, and no character mode that a raster position would fault on. -/
structure BusReady (s : State) : Prop where
  running : s.fault = none
  ratio : 1 ≤ s.config.ratio
  ports : PortsWired s.config
  idle : BusIdle s
  mode : ModeAccepted s
  wire : s.tape.wdLatch = s.tape.wdPrev

/-- `ticks` system ticks passed, no fault arose, the bus is idle again, and no indirect register, no derived
configuration, no video-RAM byte and no codec state but the pulse measure changed. -/
def OnlyTimePasses (ticks : Nat) (s u : State) : Prop :=
  u.fault = none ∧ u.tickCount = s.tickCount + ticks ∧ BusIdle u ∧ u.ir = s.ir ∧ u.cfg = s.cfg ∧ u.vram = s.vram ∧
  u.tape = { s.tape with elapsed := s.tape.elapsed + ticks } ∧ u.config = s.config ∧ u.script = s.script ∧
  u.stopFlag = s.stopFlag

/-- The system ticks of one bus cycle (30_encoding R129). -/
def cycleTicks (t : BusTiming) : Nat := t.strobe + t.idle

/-- The codec's part of the invariant (44_tape_codec R282, R286 to R292). -/
structure TapeInv (c : Config) (t : Tape) : Prop where
  size : t.image.length ≤ c.tapeMax
  reachable : t.state ≠ .awaitSync2 ∧ t.state ≠ .payload
  bits : t.bitCount ≤ 8
  waiting : t.state = .awaitSync1 → t.ring.length ≤ 1
  reading : t.state = .headerBits → t.ring.length ≤ 3 ∧ frontLongPair c t.ring = false ∧ t.bitCount < 8
  draining : t.state = .error → t.ring.length ≤ 4 ∧ t.drained < c.errorDrainN
  finished : t.state = .finished → t.ring.length ≤ 4

/-- The invariant of the block: what holds at reset and after every step. -/
structure Inv (s : State) : Prop where
  config : Lawful s.config
  /-- 10_state R28 -/
  derived : s.cfg = derive s.ir
  /-- 60_exceptions R348 -/
  line : s.line < 312
  /-- 60_exceptions R348, with the longer of the two line lengths -/
  tick : s.tickInLine < max s.config.ticksPerLine312 s.config.ticksPerLine262
  /-- the memories keep their canonical form -/
  vramForm : s.vram.wf = true
  fbForm : s.fb.wf = true
  /-- 20_memory R76 -/
  vramRange : s.vram.within 0 8192 = true
  /-- 43_vdp_raster R242 -/
  fbRange : s.fb.within 3200 80000 = true
  /-- 30_encoding R121 -/
  fbColours : s.fb.all (fun cell => cell.2.toNat < 8) = true
  /-- 10_state R39 -/
  addressMode : s.pins.am = 0
  tape : TapeInv s.config s.tape

/-- A column register after `IncCol`: the column goes up by one modulo 40, bits 7:6 stay (42_vdp_commands R184). -/
def ColumnBumped (v v' : Byte) : Prop :=
  v'.extractLsb' 6 2 = v.extractLsb' 6 2 ∧ (v'.extractLsb' 0 6).toNat = ((v.extractLsb' 0 6).toNat + 1) % 40

/-- A row register after `IncRow`: 31 becomes 8, any other row goes up by one, bits 7:5 stay (42_vdp_commands R185). -/
def RowBumped (v v' : Byte) : Prop :=
  v'.extractLsb' 5 3 = v.extractLsb' 5 3 ∧
    (v'.extractLsb' 0 5).toNat = (if (v.extractLsb' 0 5).toNat = 31 then 8 else (v.extractLsb' 0 5).toNat + 1)

/-- The column register shows a wrap (42_vdp_commands R184). -/
def ColumnWraps (v : Byte) : Prop := 40 ≤ (v.extractLsb' 0 6).toNat + 1

/-- Nothing but the direct registers differs. -/
def OnlyRegs (s t : State) : Prop := { t with r := s.r } = s

/-- Nothing but the direct registers and video RAM differs. -/
def OnlyRegsAndVram (s t : State) : Prop := { t with r := s.r, vram := s.vram } = s

/-- The state with its raster, its bus latches and its tape replaced: what no command may read or write
(42_vdp_commands R203). -/
def withOtherParts (s u : State) : State :=
  { s with
      tickInLine := u.tickInLine, line := u.line, rowbuf := u.rowbuf, rowY := u.rowY, quad := u.quad, fb := u.fb
      addrLatch := u.addrLatch, dsLatch := u.dsLatch, xqLatch := u.xqLatch
      prevAs := u.prevAs, prevDs := u.prevDs, prevRw := u.prevRw, tape := u.tape }

/-- The operations run one after the other, from `s` to `t`. -/
def runsTo : List Instr → State → State → Prop
  | [], s, t => t = s
  | i :: is, s, t => ∃ u, exec i s = .next u ∧ runsTo is u t

/-- The edge operations of a system tick that puts the levels `b` and the byte `d` on the VDP's pins, in the order in
which the bus step tests them (41_vdp_bus_interface R161). -/
def edgesOf (s : State) (b : BusLines) (d : Byte) : List Instr :=
  (if s.prevAs && !b.as then [.vbAsFall d b.ds] else []) ++ (if s.prevDs && !b.ds then [.vbDsFall b.rw] else []) ++
    (if s.prevRw && !b.rw then [.vbRwFall d] else []) ++ (if !s.prevRw && b.rw then [.vbRwRise] else [])

/-- The pulses `ps` carry the bits `bs`: two long pulses for a 0, four short ones for a 1 (30_encoding R124). -/
def pulsesCarry (c : Config) : List Bool → List Nat → Prop
  | [], ps => ps = []
  | false :: bs, ps => ∃ a b rest, ps = a :: b :: rest ∧ isLong c a ∧ isLong c b ∧ pulsesCarry c bs rest
  | true :: bs, ps =>
    ∃ w x y z rest, ps = w :: x :: y :: z :: rest ∧
      isShort c w ∧ isShort c x ∧ isShort c y ∧ isShort c z ∧ pulsesCarry c bs rest

/-- The bits of a byte in the order the tape carries them, least significant first (30_encoding R125). -/
def byteBits (b : Byte) : List Bool := (List.range 8).map b.getLsbD

/-- The codec fed with samples, one toggle each (44_tape_codec R281). -/
def feed : List Nat → State → State
  | [], s => s
  | d :: ds, s => feed ds (live (toggle d) s)

/-- The pulses of a message: for each byte a synchro and its eight bits (30_encoding R125). -/
def pulsesCarryBytes (c : Config) : List Byte → List Nat → Prop
  | [], ps => ps = []
  | b :: bs, ps =>
    ∃ x y bits rest, ps = x :: y :: (bits ++ rest) ∧ isLong c x ∧ isLong c y ∧ pulsesCarry c (byteBits b) bits ∧
      pulsesCarryBytes c bs rest

/-- The operations of the host, which act between system ticks (45_system_tick R321); every other operation is a
sub-step of a tick, or ticks, and is what a halted block no longer performs (00_scope R9). -/
def isHostCall : Instr → Bool
  | .tpInsert _ | .tpEject | .sysRun _ | .sysReset | .hostFb _ | .hostInsert _ | .hostEject | .hostReset => true
  | .bdIdle _ | .bdKbd | .bdTapeRd | .bdVdpDs | .bdNc3 | .bdVdpAs | .bdTapeWr | .bdVdpRw | .bdNc7 => false
  | .vbAsFall _ _ | .vbDsFall _ | .vbRwFall _ | .vbRwRise => false
  | .krfW _ | .krfR _ | .krgW _ | .krgR _ | .octWMp _ | .octWAp _ | .octRMp _ | .octRAp _ => false
  | .indW _ | .indR _ | .iny _ | .unknownA _ | .unknownC _ => false
  | .unimplClr _ _ _ | .unimplOct _ _ _ => false
  | .unimplKre _ | .unimplKrv _ | .unimplKrc _ | .unimplKrl _ | .unimplExp _ | .unimplCmp _ => false
  | .unimplNop _ | .unimplMvb _ | .unimplMvd _ | .unimplMvt _ => false
  | .raTick | .raServiceRow | .raRowReload _ | .raQuadrant | .raCell _ _ _ | .raAdvance | .raSync => false
  | .tpTick _ _ | .tpSync | .tpBit0 | .tpBit1 | .tpErr | .tpDrain | .tpNotimpl | .tpInert => false
  | .sysTick => false
  | .out _ _ _ | .inp _ _ | .idle _ | .wreg _ _ _ _ | .wregx _ _ _ _ | .rreg _ _ _ | .cmd _ _ _ | .kout _ _ => false

/-- The host calls that reset the codec (44_tape_codec R274, 70_reset R367). -/
def resetsCodec (i : Instr) : Prop :=
  (∃ image, i = .tpInsert image ∨ i = .hostInsert image) ∨ i = .tpEject ∨ i = .hostEject ∨ i = .sysReset ∨ i = .hostReset

/-- The operations that tick the whole block. -/
def ticksBlock (i : Instr) : Prop :=
  i = .sysTick ∨ (∃ n, i = .sysRun n) ∨ (∃ q v t, i = .out q v t) ∨ (∃ q t, i = .inp q t) ∨ (∃ k, i = .idle k) ∨
  (∃ n v t u, i = .wreg n v t u ∨ i = .wregx n v t u) ∨ (∃ n t u, i = .rreg n t u) ∨ (∃ c t u, i = .cmd c t u) ∨
  (∃ b t, i = .kout b t)

/-- The commands that store to video RAM, and the edge that runs a command (10_state R40). -/
def storesVram (i : Instr) : Prop :=
  (∃ inc, i = .krfW inc ∨ i = .krgW inc ∨ i = .octWMp inc ∨ i = .octWAp inc) ∨ i = .vbRwRise

/-- The values of R53 in every item of 10_state that reset gives a value to (70_reset R360 to R368). -/
structure ResetValues (t : State) : Prop where
  r : ∀ k, getReg t k = 0x00
  ir : ∀ k, getIReg t k = 0x00
  cfg : t.cfg = { linesPerFrame := 312, interlace := false, charMode := 0, blockOrigin := 0, originRow := 0 }
  position : t.tickInLine = 0 ∧ t.line = 0
  latches : t.addrLatch = 0x00 ∧ t.dsLatch = true ∧ t.xqLatch = false
  edges : t.prevAs = true ∧ t.prevDs = true ∧ t.prevRw = true
  rowbuf : ∀ c < 40, cellAt t c = blankCell
  rowY : t.rowY = 0
  quad : ∀ c < 40, quadAt t c = .none
  fb : ∀ i, fbRead t i = 0x00
  sync : t.hs = true ∧ t.vs = true
  drive : t.adOut = 0x00 ∧ t.adDriven = false
  image : t.tape.image = [] ∧ t.tape.info = blankMeta ∧ t.tape.insertError = none
  codec : t.tape.state = .awaitSync1 ∧ t.tape.ring = [] ∧ t.tape.curByte = 0x00 ∧ t.tape.bitCount = 0
  measure : t.tape.elapsed = 0 ∧ t.tape.drained = 0 ∧ t.tape.wdLatch = false ∧ t.tape.wdPrev = false ∧ t.tape.decoded = []
  block : t.fault = none ∧ t.log = [] ∧ t.tickCount = 0 ∧ t.stopFlag = false
  cpu : t.cpuPins = t.config.cpuResetPins

/-- A tape image made of its fields (30_encoding R126). -/
def makeImage (format : Byte) (name : Vector Byte 6) (version : Byte) (startLine : Vector Byte 5) (protection : Byte)
    (checkPos startAddr dataLen checksum : BitVec 16) (rest : List Byte) : List Byte :=
  let le (w : BitVec 16) : List Byte := [w.extractLsb' 0 8, w.extractLsb' 8 8]
  List.replicate 10 0xD3 ++ [format] ++ name.toList ++ [version] ++ startLine.toList ++ [protection] ++
    le checkPos ++ le startAddr ++ le dataLen ++ le checksum ++ List.replicate 10 0xD6 ++ rest

end Sys2Proof.Machine
end

