-- ==== Sys2Proof/Certificates/Slice0/Obligations.lean ====
section
/-! DEFINITION. The statements for the provers. Each docstring names the rules it formalises. `exec i s = .next t` is a
completion: the operation has its own effect and the state after it is `t`. A record equation
`{ t with f := s.f } = s` is a frame: only field `f` may differ. -/

open Sys2Proof Sys2Proof.Machine

/-! ### Words -/

/-- Decoding and encoding agree over every script word and every operation with all its operands (R103, R105, R108,
R127; the words of operations without bits are the model's, log entry 7). -/
def Obligations.DecodingAndEncodingAgree : Prop :=
  ∀ (w : OpWord) (i : Instr), decode w = .ok i ↔ (i.wf = true ∧ encode i = w)

/-- R108: the command map over all 256 values of `R[0]`, row by row; the rows' values are all the bytes. -/
def Obligations.CommandMapCoversAllBytes : Prop :=
  ∀ c : Byte,
    let p := c.extractLsb' 0 4
    let i := c.getLsbD 0
    (c ∈ [0x00#8, 0x01#8] → decodeCmd c = .krfW i) ∧
    (c ∈ [0x08#8, 0x09#8] → decodeCmd c = .krfR i) ∧
    (c ∈ [0x02#8, 0x03#8] → decodeCmd c = .krgW i) ∧
    (c ∈ [0x0A#8, 0x0B#8] → decodeCmd c = .krgR i) ∧
    (c ∈ [0x04#8, 0x05#8, 0x06#8, 0x07#8, 0x0C#8, 0x0D#8, 0x0E#8, 0x0F#8] →
      decodeCmd c = .unimplClr (c.getLsbD 3) (c.getLsbD 1) i) ∧
    (0x10#8 ≤ c ∧ c ≤ 0x1F#8 → decodeCmd c = .unimplKre p) ∧
    (0x20#8 ≤ c ∧ c ≤ 0x2F#8 → decodeCmd c = .unimplKrv p) ∧
    (c ∈ [0x30#8, 0x31#8] → decodeCmd c = .octWMp i) ∧
    (c ∈ [0x34#8, 0x35#8] → decodeCmd c = .octWAp i) ∧
    (c ∈ [0x38#8, 0x39#8] → decodeCmd c = .octRMp i) ∧
    (c ∈ [0x3C#8, 0x3D#8] → decodeCmd c = .octRAp i) ∧
    (c ∈ [0x32#8, 0x33#8, 0x36#8, 0x37#8, 0x3A#8, 0x3B#8, 0x3E#8, 0x3F#8] →
      decodeCmd c = .unimplOct (c.getLsbD 3) (c.getLsbD 2) i) ∧
    (0x40#8 ≤ c ∧ c ≤ 0x4F#8 → decodeCmd c = .unimplKrc p) ∧
    (0x50#8 ≤ c ∧ c ≤ 0x5F#8 → decodeCmd c = .unimplKrl p) ∧
    (0x60#8 ≤ c ∧ c ≤ 0x6F#8 → decodeCmd c = .unimplExp p) ∧
    (0x70#8 ≤ c ∧ c ≤ 0x7F#8 → decodeCmd c = .unimplCmp p) ∧
    (0x80#8 ≤ c ∧ c ≤ 0x87#8 → decodeCmd c = .indW (c.extractLsb' 0 3)) ∧
    (0x88#8 ≤ c ∧ c ≤ 0x8F#8 → decodeCmd c = .indR (c.extractLsb' 0 3)) ∧
    (0x90#8 ≤ c ∧ c ≤ 0x9F#8 → decodeCmd c = .unimplNop p) ∧
    (0xA0#8 ≤ c ∧ c ≤ 0xAF#8 → decodeCmd c = .unknownA p) ∧
    (0xB0#8 ≤ c ∧ c ≤ 0xBF#8 → decodeCmd c = .iny p) ∧
    (0xC0#8 ≤ c ∧ c ≤ 0xCF#8 → decodeCmd c = .unknownC p) ∧
    (0xD0#8 ≤ c ∧ c ≤ 0xDF#8 → decodeCmd c = .unimplMvb p) ∧
    (0xE0#8 ≤ c ∧ c ≤ 0xEF#8 → decodeCmd c = .unimplMvd p) ∧
    (0xF0#8 ≤ c → decodeCmd c = .unimplMvt p)

/-- A few words written out: command bytes from R108, selectors from R103. The two edge words rest on the model's reading
of R127 as the bits (previous, present) with the previous level in bit 1 (log entry 27, DEDUCED), and their further
operands, the order of them and the 0 of a rising edge, are the model's (log entry 7, DESIGN CHOICE). -/
def Obligations.SampleWordsDecode : Prop :=
  decode ⟨.cmd, [0b00001001]⟩ = .ok (.krfR true) ∧
  decode ⟨.cmd, [0b00110101]⟩ = .ok (.octWAp true) ∧
  decode ⟨.cmd, [0b10001111]⟩ = .ok (.indR 7) ∧
  decode ⟨.cmd, [0b10110101]⟩ = .ok (.iny 5) ∧
  decode ⟨.bd, [0b1110]⟩ = .ok .bdVdpRw ∧
  decode ⟨.bd, [0b0011]⟩ = .ok (.bdIdle 3) ∧
  decode ⟨.edgeRw, [0b01, 0]⟩ = .ok .vbRwRise ∧
  decode ⟨.edgeAs, [0b10, 0x29, 1]⟩ = .ok (.vbAsFall 0x29 true)

/-! ### The step -/

/-- A step gives the host its turn (R321, log entry 24) and then runs the decoded operation of the script's next word;
with no word left it is a system tick; a word that is no operation is refused (log entries 6 and 7). -/
def Obligations.StepRunsDecodedOperation : Prop :=
  ∀ s : State,
    let u : State :=
      { s with
          stopFlag := s.stopFlag || s.outside.stopRequests.headD false
          outside := { s.outside with stopRequests := s.outside.stopRequests.tail } }
    (∀ w rest i, s.script = w :: rest → decode w = .ok i → step s = exec i { u with script := rest }) ∧
    (∀ w rest e, s.script = w :: rest → decode w = .error e → step s = .refused (.undecodable e)) ∧
    (s.script = [] → step s = exec .sysTick u) ∧
    (s.outside.stopRequests = [] → u = s)

/-- A step has an outcome in every state, never a fault, and refuses only a word that is no operation and an image
longer than `TAPE_MAX` (R270; log entry 20); `exec` refuses operands outside the ranges of their rules (log entry 21). -/
def Obligations.StepOutcomesAreThese : Prop :=
  (∀ s : State,
    (∃ t, step s = .next t) ∨
    (∃ w rest e, s.script = w :: rest ∧ decode w = .error e ∧ step s = .refused (.undecodable e)) ∨
    (∃ w rest image, s.script = w :: rest ∧
      (decode w = .ok (.tpInsert image) ∨ decode w = .ok (.hostInsert image)) ∧
      s.config.tapeMax < image.length ∧ step s = .refused .imageTooLong)) ∧
  (∀ (i : Instr) (s : State), i.wf = false → ∃ name, exec i s = .refused (.outsideDomain name))

/-- The invariant of the block is kept by every step from every state that has it. -/
def Obligations.EveryStepKeepsTheInvariant : Prop :=
  ∀ s t : State, Inv s → step s = .next t → Inv t

/-- The invariant holds at reset, with the configuration and the video RAM the model chose for it (log entries 1 and
2). -/
def Obligations.ResetMeetsTheInvariant : Prop := Inv State.reset

/-! ### Bus decoder -/

/-- R144, with the chip enable of R141 and the index of R143; R142: nothing else of the pin record enters. -/
def Obligations.DecoderIsOneHot : Prop :=
  ∀ (c : Config) (p : CpuPins),
    let ce := p.a.getLsbD c.ceAddrBit = true ∧ p.iorq = true ∧ (p.rd = true ∨ p.wr = true)
    let index := 4 * p.wr.toNat + 2 * (p.a.getLsbD c.selHiBit).toNat + (p.a.getLsbD c.selLoBit).toNat
    let y := (busDecode c p).y
    (ce → y = 0xFF#8 ^^^ (1#8 <<< index) ∧ ∀ i < 8, (y.getLsbD i = false ↔ i = index)) ∧
    (¬ ce → y = 0xFF#8) ∧
    (∀ q : CpuPins, q.a = p.a → q.iorq = p.iorq → q.rd = p.rd → q.wr = p.wr → busDecode c q = busDecode c p)

/-- The reference I/O map of R146 (R77) over every pin record. -/
def Obligations.ReferenceIoMap : Prop :=
  ∀ p : CpuPins,
    let six := sixLines (busDecode configRef p)
    let port := p.a.extractLsb' 5 3
    let clear := [true, true, true, true, true, true]
    (p.iorq = true → p.wr = true →
      (port = 0b100 → six = [false, true, true, true, true, true]) ∧
      (port = 0b101 → six = [true, true, true, true, true, false]) ∧
      (port = 0b110 → six = [true, true, false, true, true, true]) ∧
      (port = 0b111 → six = clear)) ∧
    (p.iorq = true → p.wr = false → p.rd = true →
      (port = 0b100 → six = [true, true, true, false, true, true]) ∧
      (port = 0b101 → six = [true, true, true, true, false, true]) ∧
      (port = 0b110 → six = [true, false, true, true, true, true]) ∧
      (port = 0b111 → six = clear)) ∧
    (p.iorq = false ∨ (p.rd = false ∧ p.wr = false) ∨ p.a.getLsbD 7 = false → six = clear)

/-- R147 to R152: each decoder operation drives `Y`, and every output takes the level of the line wired to it (R145);
under the reference wiring these are the outputs the rules name. That a row drives the lines by its index alone is log
entry 10. -/
def Obligations.DecoderOperationsDriveTheirLine : Prop :=
  ∀ s : State, s.fault = none →
    let w := s.config.wire
    let drives (i : Instr) (y : Byte) (six : List Level) : Prop :=
      ∃ t, exec i s = .next t ∧ { t with bus := s.bus } = s ∧ t.bus.y = y ∧
        sixLines t.bus = [w.as, w.ds, w.rw, w.kbd, w.tapeRd, w.tapeWr].map (fun line => y.getLsbD line) ∧
        (w = wireRef → sixLines t.bus = six)
    (∀ idx, drives (.bdIdle idx) 0xFF [true, true, true, true, true, true]) ∧
    drives .bdKbd 0xFE [true, true, true, false, true, true] ∧
    drives .bdTapeRd 0xFD [true, true, true, true, false, true] ∧
    drives .bdVdpDs 0xFB [true, false, true, true, true, true] ∧
    drives .bdNc3 0xF7 [true, true, true, true, true, true] ∧
    drives .bdVdpAs 0xEF [false, true, true, true, true, true] ∧
    drives .bdTapeWr 0xDF [true, true, true, true, true, false] ∧
    drives .bdVdpRw 0xBF [true, true, false, true, true, true] ∧
    drives .bdNc7 0x7F [true, true, true, true, true, true]

/-! ### Bus interface -/

/-- VB.AS_FALL (R162) and VB.RW_FALL (R165): what they store, and that they store nothing else. -/
def Obligations.StrobesLatchAndStore : Prop :=
  ∀ s : State, s.fault = none →
    (∀ ad ds, exec (.vbAsFall ad ds) s =
      .next { s with addrLatch := ad, dsLatch := ds, xqLatch := ad.getLsbD 3 }) ∧
    (∀ ad, s.addrLatch.getLsbD 5 = false → exec (.vbRwFall ad) s = .next s) ∧
    (∀ ad, s.addrLatch.getLsbD 5 = true →
      ∃ t, exec (.vbRwFall ad) s = .next t ∧ OnlyRegs s t ∧
        ∀ k : BitVec 3, getReg t k = if k.toNat = s.addrLatch.toNat % 8 then ad else getReg s k)

/-- VB.DS_FALL (R163): a read is answered with `RW = 1` and address bit 4 clear; register 0 reads 0x00 and is logged
(R336); in every other case nothing changes. It executes nothing, whatever `xq_latch` holds (R372). -/
def Obligations.DataStrobeReadsRegister : Prop :=
  ∀ (s : State) (rw : Level), s.fault = none →
    let n := s.addrLatch.extractLsb' 0 3
    (rw = true → s.addrLatch.getLsbD 4 = false → n = 0 →
      exec (.vbDsFall rw) s =
        .next { s with adOut := 0x00, adDriven := true, log := s.log ++ [.r0PlaceholderRead] }) ∧
    (rw = true → s.addrLatch.getLsbD 4 = false → n ≠ 0 →
      exec (.vbDsFall rw) s = .next { s with adOut := getReg s n, adDriven := true }) ∧
    (rw = false ∨ s.addrLatch.getLsbD 4 = true → exec (.vbDsFall rw) s = .next s)

/-- R164: the register round trip on the bus, with any state in between that left the register and the address latch
as they were. -/
def Obligations.RegisterReadsBackOnTheBus : Prop :=
  ∀ (s : State) (ad v : Byte) (ds : Level), s.fault = none → ad.getLsbD 5 = true → ad.getLsbD 4 = false →
    let n := ad.extractLsb' 0 3
    ∃ s1 s2, exec (.vbAsFall ad ds) s = .next s1 ∧ exec (.vbRwFall v) s1 = .next s2 ∧
      ∀ u : State, u.fault = none → u.addrLatch = s2.addrLatch → getReg u n = getReg s2 n →
        ∃ s3, exec (.vbDsFall true) u = .next s3 ∧ s3.adDriven = true ∧ s3.adOut = (if n = 0 then 0x00 else v)

/-- R166 and R180: the rising edge of `RW` runs the command in `R[0]` if the latched address asked for it, and otherwise
nothing. The class of the opcode is the configuration's (R5, U3): where it is the reference table's the command is the one
`R[0]` decodes to; another opcode of a group runs the group's command with its own parameter bits (log entry 15). -/
def Obligations.RwRiseExecutesRegisterZero : Prop :=
  ∀ s : State, s.fault = none →
    let c := getReg s 0
    let op : BitVec 4 := c.extractLsb' 4 4
    let p : BitVec 4 := c.extractLsb' 0 4
    let runs (i : Instr) : Prop := ∃ t, exec .vbRwRise s = .next t ∧ exec i s = .next t
    let logs : Prop := exec .vbRwRise s = .next { s with log := s.log ++ [.unimplementedCommand c] }
    let noCommand (g : CommandGroup) : Prop := g = .block ∧ p.getLsbD 2 = true ∨ g = .octet ∧ p.getLsbD 1 = true
    (s.xqLatch = true →
      (cmdClass s.config op = cmdClassRef op → runs (decodeCmd c)) ∧
      (cmdClass s.config op = .unimplemented → logs) ∧
      (cmdClass s.config op = .unrecognised → exec .vbRwRise s = .next { s with fault := some (.unknownOpcode c) }) ∧
      ∀ g, cmdClass s.config op = .implemented g →
        (noCommand g → logs) ∧
        (¬ noCommand g → ∀ ref : BitVec 4, cmdClassRef ref = .implemented g → runs (decodeCmd (cmdByte ref p)))) ∧
    (s.xqLatch = false → exec .vbRwRise s = .next s)

/-! ### Video-RAM addresses -/

/-- R73: the reference transcoding is a formula, meets L1 to L4, and is injective over all triples. -/
def Obligations.ReferenceTranscodingIsInjective : Prop :=
  (∀ (b : BitVec 2) (col : BitVec 6) (row : BitVec 5),
    (transcodeRef b col row).toNat = b.toNat * 2048 + row.toNat * 64 + col.toNat ∧
    (transcodeRef b col row).toNat < 8192) ∧
  (∀ (b b' : BitVec 2) (col col' : BitVec 6) (row row' : BitVec 5),
    transcodeRef b col row = transcodeRef b' col' row' → b = b' ∧ col = col' ∧ row = row') ∧
  TranscodeLaw configRef

/-- R74, R113 and R181 under the reference functions: where a pointer's plane `j` lies in video RAM. -/
def Obligations.PointerAddressesUnderReference : Prop :=
  ∀ (s : State) (j : BitVec 2), s.config.transcodeAt = [] → s.config.ptrBlockAt = [] →
    let at_ (row col : Byte) : Nat :=
      (2 * (col.getLsbD 6).toNat + (col.getLsbD 7).toNat + j.toNat) % 4 * 2048 + row.toNat % 32 * 64 + col.toNat % 64
    (ptrAddr s.config (mp s) j).toNat = at_ (getReg s 6) (getReg s 7) ∧
    (ptrAddr s.config (ap s) j).toNat = at_ (getReg s 4) (getReg s 5)

/-! ### Commands -/

/-- KRF.W (R187) and KRG.W (R189): the bytes stored, in order, at addresses computed before the increment; every other
byte of video RAM, every register but `R[7]` and everything else unchanged. -/
def Obligations.BlockStoresAtMp : Prop :=
  ∀ (s : State) (inc : Bool), s.fault = none → s.vram.wf = true →
    let a (j : BitVec 2) := ptrAddr s.config (mp s) j
    let pointer (t : State) : Prop :=
      OnlyRegsAndVram s t ∧ (∀ k : BitVec 3, k ≠ 7 → getReg t k = getReg s k) ∧
        (inc = true → ColumnBumped (getReg s 7) (getReg t 7)) ∧ (inc = false → getReg t 7 = getReg s 7)
    (∃ t, exec (.krfW inc) s = .next t ∧ pointer t ∧
      ∀ x, vramRead t x =
        if x = a 2 then getReg s 3 else if x = a 1 then getReg s 2 else if x = a 0 then getReg s 1 else vramRead s x) ∧
    (∃ t, exec (.krgW inc) s = .next t ∧ pointer t ∧
      ∀ x, vramRead t x = if x = a 1 then getReg s 2 else if x = a 0 then getReg s 1 else vramRead s x)

/-- KRF.R (R188) and KRG.R (R190): the registers loaded, and that nothing but registers changes. -/
def Obligations.BlockLoadsAtMp : Prop :=
  ∀ (s : State) (inc : Bool), s.fault = none →
    let byte (j : BitVec 2) := vramRead s (ptrAddr s.config (mp s) j)
    let pointer (t : State) : Prop :=
      OnlyRegs s t ∧ (∀ k : BitVec 3, k ∈ [0#3, 4#3, 5#3, 6#3] → getReg t k = getReg s k) ∧
        (inc = true → ColumnBumped (getReg s 7) (getReg t 7)) ∧ (inc = false → getReg t 7 = getReg s 7)
    (∃ t, exec (.krfR inc) s = .next t ∧ pointer t ∧
      getReg t 1 = byte 0 ∧ getReg t 2 = byte 1 ∧ getReg t 3 = byte 2) ∧
    (∃ t, exec (.krgR inc) s = .next t ∧ pointer t ∧
      getReg t 1 = byte 0 ∧ getReg t 2 = byte 1 ∧ getReg t 3 = getReg s 3)

/-- OCT.W.MP (R191) and OCT.R.MP (R192): one byte at MP; the increment carries into the row (R186). -/
def Obligations.ByteTransfersAtMp : Prop :=
  ∀ (s : State) (inc : Bool), s.fault = none → s.vram.wf = true →
    let a := ptrAddr s.config (mp s) 0
    let pointer (t : State) : Prop :=
      (∀ k : BitVec 3, k ∈ [0#3, 2#3, 3#3, 4#3, 5#3] → getReg t k = getReg s k) ∧
      (inc = true → ColumnBumped (getReg s 7) (getReg t 7)) ∧
      (inc = true → ColumnWraps (getReg s 7) → RowBumped (getReg s 6) (getReg t 6)) ∧
      (inc = true → ¬ ColumnWraps (getReg s 7) → getReg t 6 = getReg s 6) ∧
      (inc = false → getReg t 7 = getReg s 7 ∧ getReg t 6 = getReg s 6)
    (∃ t, exec (.octWMp inc) s = .next t ∧ OnlyRegsAndVram s t ∧ pointer t ∧ getReg t 1 = getReg s 1 ∧
      ∀ x, vramRead t x = if x = a then getReg s 1 else vramRead s x) ∧
    (∃ t, exec (.octRMp inc) s = .next t ∧ OnlyRegs s t ∧ pointer t ∧ getReg t 1 = vramRead s a)

/-- OCT.W.AP (R193) and OCT.R.AP (R194): one byte at AP; the increment never carries. -/
def Obligations.ByteTransfersAtAp : Prop :=
  ∀ (s : State) (inc : Bool), s.fault = none → s.vram.wf = true →
    let a := ptrAddr s.config (ap s) 0
    let pointer (t : State) : Prop :=
      (∀ k : BitVec 3, k ∈ [0#3, 2#3, 3#3, 4#3, 6#3, 7#3] → getReg t k = getReg s k) ∧
      (inc = true → ColumnBumped (getReg s 5) (getReg t 5)) ∧ (inc = false → getReg t 5 = getReg s 5)
    (∃ t, exec (.octWAp inc) s = .next t ∧ OnlyRegsAndVram s t ∧ pointer t ∧ getReg t 1 = getReg s 1 ∧
      ∀ x, vramRead t x = if x = a then getReg s 1 else vramRead s x) ∧
    (∃ t, exec (.octRAp inc) s = .next t ∧ OnlyRegs s t ∧ pointer t ∧ getReg t 1 = vramRead s a)

/-- R196: INY with any parameter bits moves the row of MP on and changes nothing else. -/
def Obligations.InyBumpsTheRow : Prop :=
  ∀ (s : State) (p : BitVec 4), s.fault = none →
    ∃ t, exec (.iny p) s = .next t ∧ OnlyRegs s t ∧ RowBumped (getReg s 6) (getReg t 6) ∧
      ∀ k : BitVec 3, k ≠ 6 → getReg t k = getReg s k

/-- R197 and R199: an indirect write stores `R[1]` and recomputes the five derived values from the fields of R114, R115
and R117, whose places the spec marks as its own decision D17; which value of the lines-per-frame bit gives 262 is log
entry 26 (DEDUCED). Nothing else changes, the raster counters among it; a write of an index no field of `cfg` is read from
(R114 to R117, MAT among them) leaves `cfg` as it was. -/
def Obligations.IndirectWriteRecomputes : Prop :=
  ∀ (s : State) (r : BitVec 3), s.fault = none →
    decodeCmd (0b10000#5 ++ r) = .indW r ∧
    ∃ t, exec (.indW r) s = .next t ∧ { t with ir := s.ir, cfg := s.cfg } = s ∧
      (∀ k : BitVec 3, getIReg t k = if k = r then getReg s 1 else getIReg s k) ∧
      t.cfg.linesPerFrame = (if (getIReg t 1).getLsbD 0 then 262 else 312) ∧
      t.cfg.interlace = (getIReg t 1).getLsbD 1 ∧
      t.cfg.charMode.toNat =
        4 * ((getIReg t 3).getLsbD 7).toNat + 2 * ((getIReg t 1).getLsbD 7).toNat + ((getIReg t 1).getLsbD 6).toNat ∧
      t.cfg.blockOrigin.toNat = (getIReg t 7).toNat / 32 % 4 ∧
      t.cfg.originRow.toNat = (getIReg t 7).toNat % 32 ∧
      (s.cfg = derive s.ir → r ∈ [0#3, 2#3, 4#3, 5#3, 6#3] → t.cfg = s.cfg)

/-- R198: an indirect read gives the stored byte in `R[1]` and changes nothing else; after an indirect write of the same
index it gives the byte written, whatever happened in between to anything but the indirect registers. -/
def Obligations.IndirectReadsBack : Prop :=
  ∀ (s : State) (r : BitVec 3), s.fault = none →
    decodeCmd (0b10001#5 ++ r) = .indR r ∧
    (∃ t, exec (.indR r) s = .next t ∧ OnlyRegs s t ∧ getReg t 1 = getIReg s r ∧
      ∀ k : BitVec 3, k ≠ 1 → getReg t k = getReg s k) ∧
    (∃ t, exec (.indW r) s = .next t ∧
      ∀ u : State, u.fault = none → u.ir = t.ir → ∃ w, exec (.indR r) u = .next w ∧ getReg w 1 = getReg s 1)

/-- R201: every unimplemented command byte logs itself and changes nothing else; which bytes those are is the reference
class table (R107, log entry 15). -/
def Obligations.UnimplementedCommandsOnlyLog : Prop :=
  ∀ s : State, s.fault = none →
    let logs (i : Instr) (c : Byte) : Prop :=
      exec i s = .next { s with log := s.log ++ [.unimplementedCommand c] } ∧ decodeCmd c = i
    (∀ p3 p1 p0, logs (.unimplClr p3 p1 p0) (0x0#4 ++ nibble p3 true p1 p0)) ∧
    (∀ p3 p2 p0, logs (.unimplOct p3 p2 p0) (0x3#4 ++ nibble p3 p2 true p0)) ∧
    (∀ p : BitVec 4,
      logs (.unimplKre p) (0x1#4 ++ p) ∧ logs (.unimplKrv p) (0x2#4 ++ p) ∧ logs (.unimplKrc p) (0x4#4 ++ p) ∧
      logs (.unimplKrl p) (0x5#4 ++ p) ∧ logs (.unimplExp p) (0x6#4 ++ p) ∧ logs (.unimplCmp p) (0x7#4 ++ p) ∧
      logs (.unimplNop p) (0x9#4 ++ p) ∧ logs (.unimplMvb p) (0xD#4 ++ p) ∧ logs (.unimplMvd p) (0xE#4 ++ p) ∧
      logs (.unimplMvt p) (0xF#4 ++ p))

/-- R202: a command byte of an unrecognised class raises `UnknownOpcode` with that byte; everything else keeps the value
it had. Which bytes those are is the reference class table (R107, log entry 15). -/
def Obligations.UnrecognisedCommandsHalt : Prop :=
  ∀ (s : State) (p : BitVec 4), s.fault = none →
    exec (.unknownA p) s = .next { s with fault := some (.unknownOpcode (0xA#4 ++ p)) } ∧
    exec (.unknownC p) s = .next { s with fault := some (.unknownOpcode (0xC#4 ++ p)) }

/-- R203: no command reads or writes the raster counters, the row buffer, the quadrant buffer, the framebuffer, the bus
latches or the tape, and none but UNKNOWN can fault. Two states that differ in those parts only stay so. -/
def Obligations.CommandsTouchOnlyTheirParts : Prop :=
  ∀ (i : Instr) (c : Byte), encodeCmd? i = some c → ∀ s u : State,
    ∃ t, exec i s = .next t ∧ withOtherParts t s = t ∧
      exec i (withOtherParts s u) = .next (withOtherParts t u) ∧
      (t.fault ≠ s.fault → (∃ p, i = .unknownA p) ∨ (∃ p, i = .unknownC p))

/-- R195: a command that uses one pointer neither reads nor writes the registers of the other, and an increment never
changes the block selector bits of its column register. -/
def Obligations.PointersAreIndependent : Prop :=
  (∀ (i : Instr) (s : State) (v w : Byte),
    (∃ inc p, i ∈ [Instr.krfW inc, .krfR inc, .krgW inc, .krgR inc, .octWMp inc, .octRMp inc, .iny p]) →
    s.fault = none →
    ∃ t, exec i s = .next t ∧ getReg t 4 = getReg s 4 ∧ getReg t 5 = getReg s 5 ∧
      (getReg t 7).extractLsb' 6 2 = (getReg s 7).extractLsb' 6 2 ∧
      exec i (setReg 4 v (setReg 5 w s)) = .next (setReg 4 v (setReg 5 w t))) ∧
  (∀ (i : Instr) (s : State) (v w : Byte),
    (∃ inc, i ∈ [Instr.octWAp inc, .octRAp inc]) → s.fault = none →
    ∃ t, exec i s = .next t ∧ getReg t 6 = getReg s 6 ∧ getReg t 7 = getReg s 7 ∧
      (getReg t 5).extractLsb' 6 2 = (getReg s 5).extractLsb' 6 2 ∧
      exec i (setReg 6 v (setReg 7 w s)) = .next (setReg 6 v (setReg 7 w t)))

/-! ### Raster -/

/-- R222: the position advances by one tick, with `>=` comparisons, and nothing else changes. -/
def Obligations.RasterAdvances : Prop :=
  ∀ s : State, s.fault = none →
    let perLine := ticksPerLine s.config s.cfg.linesPerFrame
    ∃ t, exec .raAdvance s = .next t ∧ { t with tickInLine := s.tickInLine, line := s.line } = s ∧
      (s.tickInLine + 1 < perLine → t.tickInLine = s.tickInLine + 1 ∧ t.line = s.line) ∧
      (perLine ≤ s.tickInLine + 1 → t.tickInLine = 0 ∧
        (s.cfg.linesPerFrame ≤ s.line + 1 → t.line = 0) ∧ (s.line + 1 < s.cfg.linesPerFrame → t.line = s.line + 1))

/-- R224 and R225: the sync levels follow the position, and nothing else changes. -/
def Obligations.SyncLevelsFollowPosition : Prop :=
  ∀ s : State, s.fault = none →
    ∃ t, exec .raSync s = .next t ∧ { t with vs := s.vs, hs := s.hs } = s ∧
      (t.vs = false ↔ s.line = 0 ∨ s.line = 1) ∧ (t.hs = false ↔ s.tickInLine < s.config.hsTicks)

/-- R223 and R324: the position after any number of raster ticks from (0, 0), frame after frame. -/
def Obligations.RasterPositionAfterTicks : Prop :=
  ∀ (s : State) (n : Nat), s.fault = none → ModeAccepted s → s.line = 0 → s.tickInLine = 0 →
    let perLine := ticksPerLine s.config s.cfg.linesPerFrame
    0 < perLine → 0 < s.cfg.linesPerFrame →
    let t := (live rasterStep)^[n] s
    t.fault = none ∧ t.line = n / perLine % s.cfg.linesPerFrame ∧ t.tickInLine = n % perLine

/-- R228 to R231: in an accepted mode a row reload loads the forty triplets of the displayed row (R229) and decodes
them; a delimiter sets background, underline, insert and conceal for itself and for the cells after it. It holds for every
layout of the cell (log entry 17); under the reference layout the fields are the bits of R119 and R230. -/
def Obligations.RowReloadLoadsAndLatches : Prop :=
  ∀ (s : State) (k : Nat), s.fault = none → ModeAccepted s → 1 ≤ k → k ≤ 24 →
    let l := s.config.layout
    let y := s.cfg.originRow.toNat + (k - 1)
    ∃ t, exec (.raRowReload k) s = .next t ∧ { t with rowY := s.rowY, rowbuf := s.rowbuf } = s ∧
      t.rowY.toNat = (if y > 31 then y - 24 else y) ∧
      ∀ c < 40,
        let cell := cellAt t c
        let left := cellAt t (c - 1)
        let plane (j : BitVec 2) := vramRead s (planeAddr s.config s.cfg.blockOrigin j (BitVec.ofNat 6 c) t.rowY)
        let word := tripletWord cell.a cell.b cell.c
        cell.c = plane 0 ∧ cell.b = plane 1 ∧ cell.a = plane 2 ∧ cell.fg = read3 l.fg word ∧
        (l = cellLayoutRef →
          cell.fg = cell.a.extractLsb' 4 3 ∧ (cell.kind = .delim ↔ cell.b.extractLsb' 5 3 = 0b100) ∧
          (cell.kind = .delim →
            cell.bg = cell.a.extractLsb' 0 3 ∧ cell.underline = cell.b.getLsbD 2 ∧ cell.insert = cell.b.getLsbD 1 ∧
            cell.conceal = cell.b.getLsbD 0) ∧
          (cell.kind ≠ .delim →
            (cell.kind = .graphic ↔ cell.b.getLsbD 7 = true) ∧ cell.dw = cell.b.getLsbD 3 ∧ cell.dh = cell.b.getLsbD 1)) ∧
        (read3 l.kind cell.b = l.delimPattern →
          cell.kind = .delim ∧ cell.bg = read3 l.bg word ∧ cell.underline = word.getLsbD l.underline ∧
          cell.insert = word.getLsbD l.insert ∧ cell.conceal = word.getLsbD l.conceal ∧
          cell.dw = false ∧ cell.dh = false) ∧
        (read3 l.kind cell.b ≠ l.delimPattern →
          cell.kind = (if cell.b.getLsbD l.graphic then .graphic else .alpha) ∧
          cell.dw = word.getLsbD l.dw ∧ cell.dh = word.getLsbD l.dh ∧
          (c = 0 → cell.bg = 0 ∧ cell.underline = false ∧ cell.insert = false ∧ cell.conceal = false) ∧
          (0 < c → cell.bg = left.bg ∧ cell.underline = left.underline ∧ cell.insert = left.insert ∧
            cell.conceal = left.conceal))

/-- R227: the character modes a row reload accepts, and the fault of every other; nothing is then loaded. -/
def Obligations.RowReloadRejectsOtherModes : Prop :=
  ∀ (s : State) (k : Nat), s.fault = none → 1 ≤ k → k ≤ 24 →
    let mode := s.cfg.charMode
    (mode = 0 ∨ mode = 4 → ∃ t, exec (.raRowReload k) s = .next t ∧ t.fault = none) ∧
    (mode = 1 ∨ mode = 2 ∨ mode = 3 →
      exec (.raRowReload k) s = .next { s with fault := some (.notImplementedCharMode mode) }) ∧
    (mode = 5 ∨ mode = 6 ∨ mode = 7 →
      exec (.raRowReload k) s = .next { s with fault := some (.unknownCharMode mode) })

/-- R232 to R234: the service row clears the quadrants; the quadrant pass goes from left to right through the table. -/
def Obligations.QuadrantPassFollowsTheTable : Prop :=
  ∀ s : State, s.fault = none →
    exec .raServiceRow s = .next { s with quad := Vector.replicate 40 .none } ∧
    ∃ t, exec .raQuadrant s = .next t ∧ { t with quad := s.quad } = s ∧
      ∀ i < 40,
        let dw := (cellAt s i).dw
        let dh := (cellAt s i).dh
        let left := if i = 0 then Quadrant.none else quadAt t (i - 1)
        let above := quadAt s i
        let q := quadAt t i
        (dw = true → dh = true → left = .dsTL → q = .dsTR) ∧
        (dw = true → dh = true → left = .dsBL → q = .dsBR) ∧
        (dw = true → dh = true → left ≠ .dsTL → left ≠ .dsBL →
          (above = .dsTL → q = .dsBL) ∧ (above = .dsTR → q = .none) ∧
          (above ≠ .dsTL → above ≠ .dsTR → q = .dsTL)) ∧
        (dw = true → dh = false → (left = .dwL → q = .dwR) ∧ (left ≠ .dwL → q = .dwL)) ∧
        (dw = false → dh = true → (above = .dhT → q = .dhB) ∧ (above ≠ .dhT → q = .dhT)) ∧
        (dw = false → dh = false → q = .none)

/-- R236 to R240: a cell render writes exactly eight bytes, each the foreground or background colour by the glyph bit
the quadrant selects, inverted under the cursor; no other byte and nothing else changes. The charset slice is a free
value where the launch does not fix it. -/
def Obligations.CellRenderWritesEightBytes : Prop :=
  ∀ (s : State) (c sl al : Nat), s.fault = none → s.fb.wf = true → c < 40 → sl < 10 → 10 ≤ al → al < 250 →
    let cell := cellAt s c
    let q := quadAt s c
    let slice :=
      if q = .none ∨ q = .dwL ∨ q = .dwR then sl
      else if q = .dhT ∨ q = .dsTL ∨ q = .dsTR then sl / 2 else 5 + sl / 2
    let g := if cell.kind = .delim then 0x00#8 else glyphSlice s.config cell.kind cell.c slice
    let cursor := (getIReg s 2).getLsbD 6 && decide ((getReg s 7).toNat % 64 = c) &&
      decide ((getReg s 6).toNat % 32 = s.rowY.toNat)
    let shown := if cursor then ~~~ g else g
    let pixel (p : Nat) : Bool :=
      let j :=
        if q = .none ∨ q = .dhT ∨ q = .dhB then p
        else if q = .dwL ∨ q = .dsTL ∨ q = .dsBL then p / 2 else 4 + p / 2
      if s.config.pixLsbLeft then shown.getLsbD j else shown.getLsbD (7 - j)
    ∃ t, exec (.raCell c sl al) s = .next t ∧ { t with fb := s.fb } = s ∧
      (∀ p < 8, (fbRead t (al * 320 + c * 8 + p)).toNat = (if pixel p then cell.fg else cell.bg).toNat) ∧
      ∀ i, (i < al * 320 + c * 8 ∨ al * 320 + c * 8 + 8 ≤ i) → fbRead t i = fbRead s i

/-- R220, R226 and R232: which of its parts a raster tick runs at each position, and that a faulting reload ends it. -/
def Obligations.RasterTickRunsSelectedParts : Prop :=
  ∀ s : State, s.fault = none →
    let finish (u : State) := advance (syncOut u)
    (s.line < s.config.vActiveStart ∨ s.config.vActiveStart + 250 ≤ s.line → exec .raTick s = .next (finish s)) ∧
    ∀ al < 250, s.line = s.config.vActiveStart + al →
      (al < 10 → exec .raTick s = .next (finish (if al = 0 ∧ s.tickInLine = 0 then serviceRow s else s))) ∧
      (10 ≤ al → ∀ u : State,
        ((al % 10 = 0 ∧ s.tickInLine = 0) ∧ ModeAccepted s ∧ u = quadrantPass (loadRow (al / 10) s)) ∨
          (¬ (al % 10 = 0 ∧ s.tickInLine = 0) ∧ u = s) →
        (∀ c < 40, 0 < s.config.ticksPerCell → s.tickInLine = s.config.hActiveStart + c * s.config.ticksPerCell →
          exec .raTick s = .next (finish (renderCell c (al % 10) al u))) ∧
        ((∀ c < 40, s.tickInLine ≠ s.config.hActiveStart + c * s.config.ticksPerCell) →
          exec .raTick s = .next (finish u))) ∧
      (10 ≤ al → al % 10 = 0 → s.tickInLine = 0 → ¬ ModeAccepted s →
        ∃ f, charModeFault s.cfg.charMode = some f ∧ exec .raTick s = .next { s with fault := some f })

/-- R31, R226, R242 and R243: a raster tick changes the framebuffer only inside the cell that starts at its position,
the row buffer and the quadrants only at the first tick of a character row, and nothing outside the raster. -/
def Obligations.RasterTickChangesOnlyItsPosition : Prop :=
  ∀ s : State, s.fault = none → ModeAccepted s →
    ∃ t, exec .raTick s = .next t ∧
      { t with
          tickInLine := s.tickInLine, line := s.line, rowbuf := s.rowbuf, rowY := s.rowY, quad := s.quad, fb := s.fb
          hs := s.hs, vs := s.vs } = s ∧
      (t.vs = false ↔ s.line = 0 ∨ s.line = 1) ∧ (t.hs = false ↔ s.tickInLine < s.config.hsTicks) ∧
      (∀ i, fbRead t i ≠ fbRead s i →
        ∃ al c, s.line = s.config.vActiveStart + al ∧ 10 ≤ al ∧ al < 250 ∧ c < 40 ∧
          s.tickInLine = s.config.hActiveStart + c * s.config.ticksPerCell ∧
          al * 320 + c * 8 ≤ i ∧ i < al * 320 + c * 8 + 8) ∧
      (t.rowbuf ≠ s.rowbuf ∨ t.rowY ≠ s.rowY →
        s.tickInLine = 0 ∧ ∃ k, 1 ≤ k ∧ k ≤ 24 ∧ s.line = s.config.vActiveStart + 10 * k) ∧
      (t.quad ≠ s.quad → s.tickInLine = 0 ∧ ∃ k ≤ 24, s.line = s.config.vActiveStart + 10 * k)

/-! ### Tape -/

/-- R270, R271 and R274 over any byte sequence: the four checks in order, what each failure leaves, what a success
stores; a sequence longer than `TAPE_MAX` is refused. TP.INSERT and HOST.INSERT (R319) alike. That a halted block inserts
too is log entry 8 (DEDUCED), and that the boolean stands in `result` is log entry 13. -/
def Obligations.InsertChecksInOrder : Prop :=
  ∀ (s : State) (b : List Byte) (i : Instr), i = .tpInsert b ∨ i = .hostInsert b →
    let le (k : Nat) : BitVec 16 := (b.getD (k + 1) 0) ++ (b.getD k 0)
    let fails (r : InsertError) : Prop :=
      exec i s = .next { s with result := .inserted false, tape := { s.tape with insertError := some r } }
    let lead := ∃ j < 10, b.getD j 0 ≠ 0xD3
    let trail := ∃ j < 10, b.getD (32 + j) 0 ≠ 0xD6
    let fits := 32 + (le 28).toNat + 10 ≤ b.length
    (s.config.tapeMax < b.length → exec i s = .refused .imageTooLong) ∧
    (b.length ≤ s.config.tapeMax →
      (b.length < 42 → fails .tooShort) ∧
      (42 ≤ b.length → lead → fails .badLeadingPreamble) ∧
      (42 ≤ b.length → ¬ lead → trail → fails .badTrailingPreamble) ∧
      (42 ≤ b.length → ¬ lead → ¬ trail → ¬ fits → fails .lengthExceedsImage) ∧
      (42 ≤ b.length → ¬ lead → ¬ trail → fits →
        ∃ t, exec i s = .next t ∧ t.result = .inserted true ∧ { t with result := s.result, tape := s.tape } = s ∧
          t.tape.image = b ∧ t.tape.insertError = none ∧
          t.tape.state = .awaitSync1 ∧ t.tape.ring = [] ∧ t.tape.curByte = 0 ∧ t.tape.bitCount = 0 ∧ t.tape.drained = 0 ∧
          t.tape.elapsed = s.tape.elapsed ∧ t.tape.wdLatch = s.tape.wdLatch ∧ t.tape.wdPrev = s.tape.wdPrev ∧
          t.tape.decoded = s.tape.decoded ∧
          t.tape.info.format = b.getD 10 0 ∧ (∀ k : Fin 6, t.tape.info.name[k] = b.getD (11 + k) 0) ∧
          t.tape.info.version = b.getD 17 0 ∧ (∀ k : Fin 5, t.tape.info.startLine[k] = b.getD (18 + k) 0) ∧
          t.tape.info.protection = b.getD 23 0 ∧ t.tape.info.checkPos = le 24 ∧ t.tape.info.startAddr = le 26 ∧
          t.tape.info.dataLen = le 28 ∧ t.tape.info.checksum = le 30))

/-- R271, R272 and R126: the header of a well-made image reads back field by field, and the image cut by one byte at
any of the three boundary checks is rejected. With `data_len = 0` the third cut leaves 41 bytes and is the second. That a
halted block inserts too is log entry 8 (DEDUCED), and that the boolean stands in `result` is log entry 13. -/
def Obligations.InsertedHeaderReadsBack : Prop :=
  ∀ (s : State) (format version protection : Byte) (name : Vector Byte 6) (startLine : Vector Byte 5)
    (checkPos startAddr dataLen checksum : BitVec 16) (payload : List Byte),
    dataLen.toNat ≤ payload.length →
    let image := makeImage format name version startLine protection checkPos startAddr dataLen checksum payload
    let rejected (cut : List Byte) (r : InsertError) : Prop :=
      ∃ t, exec (.tpInsert cut) s = .next t ∧ t.result = .inserted false ∧ t.tape = { s.tape with insertError := some r }
    image.length ≤ s.config.tapeMax →
    image.length = 42 + payload.length ∧
    (∃ t, exec (.tpInsert image) s = .next t ∧ t.result = .inserted true ∧ t.tape.image = image ∧
      t.tape.info =
        { format := format, name := name, version := version, startLine := startLine, protection := protection
          checkPos := checkPos, startAddr := startAddr, dataLen := dataLen, checksum := checksum }) ∧
    rejected (image.take 9) .tooShort ∧ rejected (image.take 41) .tooShort ∧
    (0 < dataLen.toNat → rejected (image.take (42 + dataLen.toNat - 1)) .lengthExceedsImage)

/-- R273 and R274: eject gives the blank tape and resets the decode machine; the wire, the measure, the decoded bytes
and the last insert error stay. TP.EJECT and HOST.EJECT (R319) alike. That no fault mark stops them is log entry 8
(DEDUCED). -/
def Obligations.EjectBlanksTheTape : Prop :=
  ∀ s : State,
    let blank : Tape :=
      { s.tape with
          image := []
          info := { format := 0, name := Vector.replicate 6 0, version := 0, startLine := Vector.replicate 5 0
                    protection := 0, checkPos := 0, startAddr := 0, dataLen := 0, checksum := 0 }
          state := .awaitSync1, ring := [], curByte := 0, bitCount := 0, drained := 0 }
    exec .tpEject s = .next { s with tape := blank } ∧ exec .hostEject s = .next { s with tape := blank }

/-- R280: a codec tick counts, follows the wire while `TAPE_WR` is low, and on a change of level toggles and starts the
measure again, unless the toggle halts the block. -/
def Obligations.CodecTickFollowsTheWire : Prop :=
  ∀ (s : State) (svc : BitVec 3) (d : Byte), s.fault = none →
    let level := if svc.getLsbD 2 then s.tape.wdLatch else d.getLsbD s.config.tapeWdataBit
    let counted : State := { s with tape := { s.tape with elapsed := s.tape.elapsed + 1, wdLatch := level } }
    let after := toggle (s.tape.elapsed + 1) counted
    (level = s.tape.wdPrev → exec (.tpTick svc d) s = .next counted) ∧
    (level ≠ s.tape.wdPrev → after.fault = none →
      exec (.tpTick svc d) s = .next { after with tape := { after.tape with elapsed := 0, wdPrev := level } }) ∧
    (level ≠ s.tape.wdPrev → after.fault ≠ none → exec (.tpTick svc d) s = .next after)

/-- R281 and R282: what a toggle does in each codec state: the sample is pushed and the selected operation of the table
runs. -/
def Obligations.ToggleRunsSelectedOperation : Prop :=
  ∀ (s : State) (d : Nat), s.fault = none →
    let c := s.config
    let old := s.tape.ring
    let ring := (if old.length = c.ringCap then old.drop 1 else old) ++ [d]
    let pushed : State := { s with tape := { s.tape with ring := ring } }
    let zero := ∃ a b rest, ring = a :: b :: rest ∧ isLong c a = true ∧ isLong c b = true
    let one := ∃ w x y z rest, ring = w :: x :: y :: z :: rest ∧
      isShort c w = true ∧ isShort c x = true ∧ isShort c y = true ∧ isShort c z = true
    (s.tape.state = .finished → toggle d s = s) ∧
    (s.tape.state = .awaitSync2 ∨ s.tape.state = .payload →
      toggle d s = { s with fault := some (.notImplementedTapeState s.tape.state) }) ∧
    (s.tape.state = .awaitSync1 → exec .tpSync pushed = .next (toggle d s)) ∧
    (s.tape.state = .error → exec .tpDrain pushed = .next (toggle d s)) ∧
    (s.tape.state = .headerBits →
      (zero → exec .tpBit0 pushed = .next (toggle d s)) ∧
      (¬ zero → one → exec .tpBit1 pushed = .next (toggle d s)) ∧
      (¬ zero → ¬ one → 4 ≤ ring.length → exec .tpErr pushed = .next (toggle d s)) ∧
      (¬ zero → ¬ one → ring.length < 4 → toggle d s = pushed))

/-- R286: the synchro search takes the first pair of long pulses and keeps what follows it; without one, only the
youngest sample is kept. In any other codec state the operation does nothing (log entry 11). -/
def Obligations.SynchroSearchTakesFirstLongPair : Prop :=
  ∀ s : State, s.fault = none →
    let ring := s.tape.ring
    let pairAt (j : Nat) : Prop :=
      ∃ a b, ring[j]? = some a ∧ ring[j + 1]? = some b ∧ isLong s.config a = true ∧ isLong s.config b = true
    (s.tape.state = .awaitSync1 →
      (∀ j, pairAt j → (∀ i < j, ¬ pairAt i) →
        exec .tpSync s =
          .next { s with tape :=
            { s.tape with ring := ring.drop (j + 2), state := .headerBits, curByte := 0, bitCount := 0 } }) ∧
      ((∀ j, ¬ pairAt j) →
        exec .tpSync s = .next { s with tape := { s.tape with ring := ring.drop (ring.length - 1) } })) ∧
    (s.tape.state ≠ .awaitSync1 → exec .tpSync s = .next s)

/-- R287 and R288: the two bit codes and the decode error, the long pair tested first; the eighth bit completes a byte.
Where the codec selects another operation these do nothing (log entry 11). -/
def Obligations.BitPulsesAssembleBytes : Prop :=
  ∀ s : State, s.fault = none →
    let c := s.config
    let t := s.tape
    let zero := ∃ a b rest, t.ring = a :: b :: rest ∧ isLong c a = true ∧ isLong c b = true
    let one := ∃ w x y z rest, t.ring = w :: x :: y :: z :: rest ∧
      isShort c w = true ∧ isShort c x = true ∧ isShort c y = true ∧ isShort c z = true
    let added (k : Nat) (byte : Byte) : State :=
      { s with tape :=
        { t with
            ring := t.ring.drop k, curByte := byte, bitCount := t.bitCount + 1
            decoded := if t.bitCount = 7 then t.decoded ++ [byte] else t.decoded
            state := if t.bitCount = 7 then .awaitSync1 else .headerBits } }
    (t.state = .headerBits → zero → exec .tpBit0 s = .next (added 2 t.curByte)) ∧
    (t.state = .headerBits → ¬ zero → one →
      exec .tpBit1 s = .next (added 4 (t.curByte ||| (1#8 <<< t.bitCount)))) ∧
    (t.state = .headerBits → ¬ zero → ¬ one → 4 ≤ t.ring.length →
      exec .tpErr s =
        .next { s with tape := { t with state := .error, drained := 0 }, log := s.log ++ [.tapeDecodeError t.ring] }) ∧
    (¬ (t.state = .headerBits ∧ zero) → exec .tpBit0 s = .next s) ∧
    (¬ (t.state = .headerBits ∧ ¬ zero ∧ one) → exec .tpBit1 s = .next s) ∧
    (¬ (t.state = .headerBits ∧ ¬ zero ∧ ¬ one ∧ 4 ≤ t.ring.length) → exec .tpErr s = .next s)

/-- R290: one pulse is drained and logged, and the last of `ERROR_DRAIN_N` ends in `FINISHED`; R281: a state without
behaviour halts, and `FINISHED` is inert. In other codec states the operations do nothing (log entry 11). -/
def Obligations.DrainHaltAndInert : Prop :=
  ∀ s : State, s.fault = none →
    let t := s.tape
    (∀ a rest, t.state = .error → t.ring = a :: rest →
      exec .tpDrain s =
        .next { s with
          tape :=
            { t with
                ring := rest, drained := t.drained + 1
                state := if s.config.errorDrainN ≤ t.drained + 1 then .finished else .error }
          log := s.log ++ [.tapeDrain a] }) ∧
    (¬ (t.state = .error ∧ t.ring ≠ []) → exec .tpDrain s = .next s) ∧
    (t.state = .awaitSync2 ∨ t.state = .payload →
      exec .tpNotimpl s = .next { s with fault := some (.notImplementedTapeState t.state) }) ∧
    (t.state ≠ .awaitSync2 → t.state ≠ .payload → exec .tpNotimpl s = .next s) ∧
    exec .tpInert s = .next s

/-- R286 to R289 together: a codec that waits with an empty ring and is fed the pulses of any message decodes exactly
that message, and a byte costs between 18 and 34 pulses. -/
def Obligations.TapeMessageDecodes : Prop :=
  ∀ (s : State) (message : List Byte) (pulses : List Nat),
    s.fault = none → s.config.Constraints → s.tape.state = .awaitSync1 → s.tape.ring = [] →
    pulsesCarryBytes s.config message pulses →
    let t := feed pulses s
    t.fault = none ∧ t.tape.state = .awaitSync1 ∧ t.tape.ring = [] ∧ t.tape.decoded = s.tape.decoded ++ message ∧
    (∀ b ∈ message.getLast?, t.tape.curByte = b ∧ t.tape.bitCount = 8) ∧ { t with tape := s.tape } = s ∧
    18 * message.length ≤ pulses.length ∧ pulses.length ≤ 34 * message.length

/-- R291: only insert, eject and reset leave `FINISHED`, and until then no byte is decoded: over every operation,
runs and bus scripts of any length among them. -/
def Obligations.FinishedIsTerminal : Prop :=
  ∀ (i : Instr) (s t : State), s.tape.state = .finished → exec i s = .next t → ¬ resetsCodec i →
    t.tape.state = .finished ∧ t.tape.decoded = s.tape.decoded ∧ t.tape.ring = s.tape.ring

/-! ### The halt -/

/-- R9: in a halted block no operation but a host call changes anything; that host calls still act is log entry 8. -/
def Obligations.HaltedBlockStays : Prop :=
  ∀ (i : Instr) (s : State) (f : Fault), s.fault = some f → isHostCall i = false → i.wf = true → exec i s = .next s

/-- R345: no operation clears or replaces the fault mark except reset. -/
def Obligations.OnlyResetClearsTheFault : Prop :=
  ∀ (i : Instr) (s t : State) (f : Fault), s.fault = some f → exec i s = .next t →
    (i ≠ .sysReset → i ≠ .hostReset → t.fault = some f) ∧ (i = .sysReset ∨ i = .hostReset → t.fault = none)

/-! ### System tick, run, reset, host -/

/-- R311, step by step. First, in the rules' own terms: a tick in which no command runs, no tape read is selected and the
codec is in a state with behaviour completes; `RATIO` raster ticks pass; the data byte is the keyboard's answer where KBD
is low (step 7), else the register the VDP drives (step 6), else the router's answer to a memory read (step 2), else the
CPU's; the tape is what TP.TICK gives for this byte (step 9); the interrupt input follows `vs` (step 10, R340). Then for
every tick, with whatever command runs: the tick is its operations one after the other, the edges of the first VDP tick
(R160, R161), the raster ticks, the answers and TP.TICK, and where none of them halts it completes. The answers of the
router and the keyboard are inputs (log entry 5). -/
def Obligations.SystemTickCompletes : Prop :=
  ∀ s : State, s.fault = none →
    let p := cpuAnswer s
    let b := busDecode s.config p
    let asked := dropCpuAnswer s
    let reads := p.mreq && p.rd
    let d := if reads then memAnswer asked p.a else p.d
    let atBus : State := { (if reads then dropMemAnswer asked else asked) with adDriven := false }
    b.tapeRd = true →
    (ModeAccepted s → s.tape.state ≠ .awaitSync2 → s.tape.state ≠ .payload →
      (s.prevRw = true ∨ b.rw = false ∨ b.as = true ∧ s.xqLatch = false) →
      let addr := if s.prevAs && !b.as then d else s.addrLatch
      let n := addr.extractLsb' 0 3
      let driven := decide (1 ≤ s.config.ratio) && s.prevDs && !b.ds && b.rw && !addr.getLsbD 4
      ∃ t, exec .sysTick s = .next t ∧ t.fault = none ∧ t.tickCount = s.tickCount + 1 ∧
        t.ir = s.ir ∧ t.cfg = s.cfg ∧ t.vram = s.vram ∧ t.config = s.config ∧ t.script = s.script ∧
        t.stopFlag = s.stopFlag ∧ t.result = s.result ∧
        (b.rw = true → t.r = s.r) ∧
        t.line = (advance^[s.config.ratio] s).line ∧ t.tickInLine = (advance^[s.config.ratio] s).tickInLine ∧
        t.adDriven = driven ∧ t.adOut = (if driven then (if n = 0 then 0x00 else getReg s n) else s.adOut) ∧
        t.cpuPins =
          { p with
              d := if !b.kbd then keyAnswer atBus p.a else if driven then t.adOut else d
              int := s.config.intFromVs && !t.vs, nmi := false } ∧
        ∀ svc : BitVec 3, svc.getLsbD 2 = b.tapeWr →
          ∃ v, exec (.tpTick svc t.cpuPins.d) s = .next v ∧ t.tape = v.tape) ∧
    (1 ≤ s.config.ratio →
      ∃ u, runsTo (edgesOf s b d) atBus u ∧ (u.fault = none →
        ∃ v, runsTo (List.replicate s.config.ratio .raTick) u v ∧ (v.fault = none →
          let byte := if !b.kbd then keyAnswer v p.a else if v.adDriven then v.adOut else d
          let keyed := if !b.kbd then dropKeyAnswer v else v
          ∀ svc : BitVec 3, svc.getLsbD 2 = b.tapeWr →
            ∃ w, exec (.tpTick svc byte) keyed = .next w ∧ (w.fault = none →
              ∃ t, exec .sysTick s = .next t ∧
                t =
                  { w with
                      prevAs := b.as, prevDs := b.ds, prevRw := b.rw, tickCount := s.tickCount + 1
                      cpuPins := { p with d := byte, int := s.config.intFromVs && !w.vs, nmi := false }
                      pins := t.pins, bus := t.bus, cpu := t.cpu }))))

/-- R343: the first raise ends the tick. A read of the tape port halts after the VDP ticks and before the codec and the
count (R311 step 8, R295). An unrecognised command that executes in the same tick hides that halt, and no raster tick runs;
a character mode that the row reload of the first raster tick rejects hides it too, and the raster stays. Then for every
tick: whichever of its operations halts first, the state is what that operation left, with nothing of the later steps. -/
def Obligations.FirstRaiseEndsTheTick : Prop :=
  ∀ s : State, s.fault = none →
    let p := cpuAnswer s
    let b := busDecode s.config p
    let asked := dropCpuAnswer s
    let reads := p.mreq && p.rd
    let d := if reads then memAnswer asked p.a else p.d
    let atBus : State := { (if reads then dropMemAnswer asked else asked) with adDriven := false }
    let ends (u : State) : Prop :=
      ∃ t, exec .sysTick s = .next t ∧ t = { u with pins := t.pins, bus := t.bus, cpu := t.cpu }
    let latched (u : State) : State := { u with prevAs := b.as, prevDs := b.ds, prevRw := b.rw }
    (ModeAccepted s → s.prevRw = true → b.tapeRd = false →
      ∃ t, exec .sysTick s = .next t ∧ t.fault = some .notImplementedTapeRead ∧ t.tickCount = s.tickCount ∧
        t.tape = s.tape ∧ t.cpuPins = s.cpuPins ∧ t.line = (advance^[s.config.ratio] s).line) ∧
    (1 ≤ s.config.ratio → s.prevRw = false → s.xqLatch = true → b.as = true → b.rw = true →
      cmdClass s.config ((getReg s 0).extractLsb' 4 4) = .unrecognised →
      ∃ t, exec .sysTick s = .next t ∧ t.fault = some (.unknownOpcode (getReg s 0)) ∧ t.tickCount = s.tickCount ∧
        t.tape = s.tape ∧ t.cpuPins = s.cpuPins ∧ t.r = s.r ∧ t.line = s.line ∧ t.tickInLine = s.tickInLine ∧
        t.prevRw = false) ∧
    (∀ k f, 1 ≤ s.config.ratio → s.prevRw = true → 1 ≤ k → k ≤ 24 → s.line = s.config.vActiveStart + 10 * k →
      s.tickInLine = 0 → charModeFault s.cfg.charMode = some f →
      ∃ t, exec .sysTick s = .next t ∧ t.fault = some f ∧ t.tickCount = s.tickCount ∧ t.tape = s.tape ∧
        t.cpuPins = s.cpuPins ∧ t.line = s.line ∧ t.tickInLine = 0 ∧ t.rowbuf = s.rowbuf ∧ t.quad = s.quad ∧
        t.fb = s.fb ∧ t.vram = s.vram) ∧
    (1 ≤ s.config.ratio →
      ∃ u, runsTo (edgesOf s b d) atBus u ∧ (u.fault ≠ none → ends u) ∧ (u.fault = none →
        ∃ v, runsTo (List.replicate s.config.ratio .raTick) u v ∧ (v.fault ≠ none → ends (latched v)) ∧
          (v.fault = none →
            let byte := if !b.kbd then keyAnswer v p.a else if v.adDriven then v.adOut else d
            let keyed := if !b.kbd then dropKeyAnswer v else v
            (b.tapeRd = false → ends (latched { keyed with fault := some .notImplementedTapeRead })) ∧
            (b.tapeRd = true → ∀ svc : BitVec 3, svc.getLsbD 2 = b.tapeWr →
              ∃ w, exec (.tpTick svc byte) keyed = .next w ∧ (w.fault ≠ none → ends (latched w))))))

/-- R316, R317, R321 and R322: a run is a sequence of iterations, each a system tick, then one question to the debug hook
if one is installed, whose answer is or-ed into `stop_flag`, then the host's turn (log entry 24); it ends before a tick
when the flag is set, and after `n` iterations at the latest. It returns (in `result`, log entry 13) the number of ticks
it completed. Without a hook, a request to stop and a fault it completes all; a halted block completes none. -/
def Obligations.RunReturnsCompletedTicks : Prop :=
  ∀ (s : State) (n : Nat),
    let asked (u : State) : State :=
      if u.outside.hookInstalled then { dropHookAnswer u with stopFlag := u.stopFlag || hookAnswer u } else u
    let turned (u : State) : State :=
      { u with
          stopFlag := u.stopFlag || u.outside.stopRequests.headD false
          outside := { u.outside with stopRequests := u.outside.stopRequests.tail } }
    ∃ t, exec (.sysRun n) s = .next t ∧ t.result = .ticks t.tickCount ∧ t.tickCount ≤ n ∧ t.config = s.config ∧
      (∃ (k : Nat) (at_ : Nat → State), k ≤ n ∧ at_ 0 = { s with tickCount := 0 } ∧
        (∀ j < k, (at_ j).stopFlag = false ∧
          ∃ u, exec .sysTick (at_ j) = .next u ∧ at_ (j + 1) = turned (asked u)) ∧
        (k = n ∨ (at_ k).stopFlag = true) ∧ t = { at_ k with result := .ticks (at_ k).tickCount }) ∧
      (s.stopFlag = true → t = { s with tickCount := 0, result := .ticks 0 }) ∧
      (s.stopFlag = false → s.outside.hookInstalled = false → true ∉ s.outside.stopRequests → t.fault = none →
        t.tickCount = n) ∧
      (s.fault ≠ none → t.tickCount = 0) ∧
      (s.outside.hookInstalled = false → true ∉ s.outside.stopRequests → t.stopFlag = s.stopFlag)

/-- R360, with R53 and R365: reset gives every item its value, keeps video RAM and the configuration, and does so from
any state, halted or not; SYS.RESET and HOST.RESET (R320) alike. What it keeps of the outside world is log entry 14. -/
def Obligations.ResetEstablishesEveryValue : Prop :=
  (∀ (s : State) (i : Instr), i = .sysReset ∨ i = .hostReset →
    ∃ t, exec i s = .next t ∧ ResetValues t ∧ t.vram = s.vram ∧ t.config = s.config) ∧
  ResetValues State.reset

/-- R318: the framebuffer export; a null system pointer gives null results; nothing else changes. The results stand in
`result` (log entries 13 and 25); the palette is a free value, and the width of an entry is log entry 28. -/
def Obligations.FramebufferExport : Prop :=
  ∀ s : State,
    exec (.hostFb true) s = .next { s with result := .framebufferNull } ∧
    ∃ colours : List (BitVec 32), colours.length = 8 ∧ (∀ k : Fin 8, colours[k]? = some (Config.palette k)) ∧
      exec (.hostFb false) s = .next { s with result := .framebuffer 320 250 1 s.fb colours }

/-- R40 and R38: video RAM is written only by the store commands, by the edge that runs a command and by operations that
tick the block; the framebuffer only by the cell render, the raster tick, reset and operations that tick the block. -/
def Obligations.OnlyTheseWriteMemory : Prop :=
  ∀ (i : Instr) (s t : State), exec i s = .next t → ¬ ticksBlock i →
    (¬ storesVram i → t.vram = s.vram) ∧
    (i ≠ .raTick → (∀ c sl al, i ≠ .raCell c sl al) → i ≠ .sysReset → i ≠ .hostReset → t.fb = s.fb)

/-! ### Bus scripts -/

/-- R130: the pseudo-instructions are their expansions into bus cycles, and a bus cycle on any port, in any state, plays
to its end. -/
def Obligations.PseudoInstructionsExpand : Prop :=
  ∀ (s : State) (n : BitVec 3) (v : Byte) (t1 t2 : BusTiming), t1.wf = true → t2.wf = true →
    let pa := s.config.portAs
    let pd := s.config.portDs
    (∀ port, (∃ u, exec (.out port v t1) s = .next u) ∧ ∃ u, exec (.inp port t1) s = .next u) ∧
    (∃ u w, exec (.out pa (0x20 + n.setWidth 8) t1) s = .next u ∧ exec (.out pd v t2) u = .next w ∧
      exec (.wreg n v t1 t2) s = .next w) ∧
    (∃ u w, exec (.out pa (0x28 + n.setWidth 8) t1) s = .next u ∧ exec (.out pd v t2) u = .next w ∧
      exec (.wregx n v t1 t2) s = .next w) ∧
    (∃ u w, exec (.out pa (0x20 + n.setWidth 8) t1) s = .next u ∧ exec (.inp pd t2) u = .next w ∧
      exec (.rreg n t1 t2) s = .next w) ∧
    exec (.cmd v t1 t2) s = exec (.wregx 0 v t1 t2) s ∧
    exec (.kout v t1) s = exec (.out s.config.portTape v t1) s

/-- R129: what a write cycle on each VDP port does to a block that is ready, and that idle ticks let only time pass. -/
def Obligations.WriteCyclesReachTheVdp : Prop :=
  ∀ (s : State) (v : Byte) (t : BusTiming) (k : Nat), BusReady s → t.wf = true →
    (∃ u, exec (.idle k) s = .next u ∧ OnlyTimePasses k s u ∧ u.r = s.r ∧ u.log = s.log ∧ u.result = s.result ∧
      u.addrLatch = s.addrLatch ∧ u.xqLatch = s.xqLatch) ∧
    (∃ u, exec (.out s.config.portAs v t) s = .next u ∧ OnlyTimePasses (cycleTicks t) s u ∧ u.r = s.r ∧
      u.log = s.log ∧ u.result = s.result ∧ u.addrLatch = v ∧ u.xqLatch = v.getLsbD 3 ∧ u.dsLatch = true) ∧
    (s.xqLatch = false →
      ∃ u, exec (.out s.config.portDs v t) s = .next u ∧ OnlyTimePasses (cycleTicks t) s u ∧
        u.log = s.log ∧ u.result = s.result ∧ u.addrLatch = s.addrLatch ∧ u.xqLatch = false ∧
        ∀ j : BitVec 3, getReg u j =
          if s.addrLatch.getLsbD 5 = true ∧ j = s.addrLatch.extractLsb' 0 3 then v else getReg s j)

/-- R129: the value a read cycle returns from each port: a VDP register, the data byte left on the pins where the VDP
does not answer (R163, log entry 12), the keyboard (R314); the tape port halts the block (R311 step 8). That a value stands
in `result`, and that the halted read leaves `result` as it was, is log entry 13. -/
def Obligations.ReadCyclesReturnTheSelectedSource : Prop :=
  ∀ (s : State) (t : BusTiming), BusReady s → t.wf = true →
    let n := s.addrLatch.extractLsb' 0 3
    let answered := s.addrLatch.getLsbD 4 = false
    (∃ u, exec (.inp s.config.portDs t) s = .next u ∧ OnlyTimePasses (cycleTicks t) s u ∧ u.r = s.r ∧
      (answered → n = 0 → u.result = .byteRead 0x00 ∧ u.log = s.log ++ [.r0PlaceholderRead]) ∧
      (answered → n ≠ 0 → u.result = .byteRead (getReg s n) ∧ u.log = s.log) ∧
      (¬ answered → u.result = .byteRead s.cpuPins.d ∧ u.log = s.log)) ∧
    (∃ u, exec (.inp s.config.portAs t) s = .next u ∧ OnlyTimePasses (cycleTicks t) s u ∧ u.r = s.r ∧ u.log = s.log ∧
      u.result = .byteRead (keyAnswer s (s.config.portAs.setWidth 16))) ∧
    (∃ u, exec (.inp s.config.portTape t) s = .next u ∧ u.fault = some .notImplementedTapeRead ∧
      u.result = s.result ∧ u.tickCount = s.tickCount ∧ u.tape = s.tape ∧ u.r = s.r ∧ u.vram = s.vram)

/-- V26a, the register round trip of R164 over whole bus scripts: for every register, byte and timing, WREG then RREG
reads the byte, and 0x00 for register 0; WREG changes no other register and executes nothing. The value read stands in
`result` (log entry 13). -/
def Obligations.WrittenRegisterReadsBack : Prop :=
  ∀ (s : State) (n : BitVec 3) (v : Byte) (t1 t2 t3 t4 : BusTiming), BusReady s →
    t1.wf = true → t2.wf = true → t3.wf = true → t4.wf = true →
    ∃ u w, exec (.wreg n v t1 t2) s = .next u ∧ OnlyTimePasses (cycleTicks t1 + cycleTicks t2) s u ∧
      u.log = s.log ∧ u.xqLatch = false ∧ (∀ k : BitVec 3, getReg u k = if k = n then v else getReg s k) ∧
      exec (.rreg n t3 t4) u = .next w ∧ OnlyTimePasses (cycleTicks t3 + cycleTicks t4) u w ∧ w.r = u.r ∧
      w.result = .byteRead (if n = 0 then 0x00 else v) ∧
      w.log = (if n = 0 then u.log ++ [.r0PlaceholderRead] else u.log)

/-- R373 and R91 over whole bus scripts: WREGX stores the byte and then executes the command in `R[0]`, once, at the end
of the write, with exactly the command's own effect; CMD is the case of register 0. A command that halts leaves the
register stored. `done` is what the edge that runs the command gives; where the opcode's class is the reference table's it
is what the command gives that `R[0]` decodes to (log entry 15). -/
def Obligations.ExecutingWriteRunsTheCommand : Prop :=
  ∀ (s : State) (n : BitVec 3) (v : Byte) (t1 t2 : BusTiming), BusReady s → t1.wf = true → t2.wf = true →
    let ticks := cycleTicks t1 + cycleTicks t2
    let stored := setReg n v s
    let op : BitVec 4 := (getReg stored 0).extractLsb' 4 4
    ∃ done, exec .vbRwRise { stored with xqLatch := true } = .next done ∧
      (cmdClass s.config op = cmdClassRef op →
        exec (decodeCmd (getReg stored 0)) { stored with xqLatch := true } = .next done) ∧
      ∃ u, exec (.wregx n v t1 t2) s = .next u ∧ (n = 0 → exec (.cmd v t1 t2) s = .next u) ∧
        (done.fault ≠ none → u.fault = done.fault ∧ u.r = stored.r ∧ u.vram = stored.vram) ∧
        (done.fault = none →
          u.r = done.r ∧ u.ir = done.ir ∧ u.cfg = done.cfg ∧ u.vram = done.vram ∧ u.log = done.log ∧ u.xqLatch = true ∧
          (u.fault = none ∨ u.fault = charModeFault done.cfg.charMode)) ∧
        (done.fault = none → ModeAccepted done →
          u.fault = none ∧ u.tickCount = s.tickCount + ticks ∧ BusIdle u ∧
          u.tape = { s.tape with elapsed := s.tape.elapsed + ticks })

/-- R130 and R280: KOUT drives the write-data line. An equal level lets only time pass; a change is one toggle whose
sample is the number of ticks since the last one. -/
def Obligations.TapeWriteTogglesTheLine : Prop :=
  ∀ (s : State) (b : Byte) (t : BusTiming), BusReady s → t.wf = true →
    s.tape.state ≠ .awaitSync2 → s.tape.state ≠ .payload →
    let level := b.getLsbD s.config.tapeWdataBit
    let toggled := toggle (s.tape.elapsed + 1) s
    ∃ u, exec (.kout b t) s = .next u ∧ u.fault = none ∧ u.tickCount = s.tickCount + cycleTicks t ∧ BusIdle u ∧
      u.r = s.r ∧ u.ir = s.ir ∧ u.cfg = s.cfg ∧ u.vram = s.vram ∧ u.result = s.result ∧
      (level = s.tape.wdLatch → OnlyTimePasses (cycleTicks t) s u ∧ u.log = s.log) ∧
      (level ≠ s.tape.wdLatch →
        u.log = toggled.log ∧
        u.tape = { toggled.tape with wdLatch := level, wdPrev := level, elapsed := cycleTicks t - 1 })
end

