-- ==== Sys2Proof/Laws/State.lean ====
section
/-! SUPPORT. What each named update does to each field of State: one lemma per field per update, true by rfl, so that
no later proof unfolds a record update. -/
namespace Sys2Proof.Machine

variable (s : State)

/-! ### setReg -/

@[simp] theorem setReg_r (k : BitVec 3) (v : Byte) : (setReg k v s).r = s.r.set k.toNat v k.isLt := rfl
@[simp] theorem setReg_ir (k : BitVec 3) (v : Byte) : (setReg k v s).ir = s.ir := rfl
@[simp] theorem setReg_cfg (k : BitVec 3) (v : Byte) : (setReg k v s).cfg = s.cfg := rfl
@[simp] theorem setReg_tickInLine (k : BitVec 3) (v : Byte) : (setReg k v s).tickInLine = s.tickInLine := rfl
@[simp] theorem setReg_line (k : BitVec 3) (v : Byte) : (setReg k v s).line = s.line := rfl
@[simp] theorem setReg_addrLatch (k : BitVec 3) (v : Byte) : (setReg k v s).addrLatch = s.addrLatch := rfl
@[simp] theorem setReg_dsLatch (k : BitVec 3) (v : Byte) : (setReg k v s).dsLatch = s.dsLatch := rfl
@[simp] theorem setReg_xqLatch (k : BitVec 3) (v : Byte) : (setReg k v s).xqLatch = s.xqLatch := rfl
@[simp] theorem setReg_prevAs (k : BitVec 3) (v : Byte) : (setReg k v s).prevAs = s.prevAs := rfl
@[simp] theorem setReg_prevDs (k : BitVec 3) (v : Byte) : (setReg k v s).prevDs = s.prevDs := rfl
@[simp] theorem setReg_prevRw (k : BitVec 3) (v : Byte) : (setReg k v s).prevRw = s.prevRw := rfl
@[simp] theorem setReg_rowbuf (k : BitVec 3) (v : Byte) : (setReg k v s).rowbuf = s.rowbuf := rfl
@[simp] theorem setReg_rowY (k : BitVec 3) (v : Byte) : (setReg k v s).rowY = s.rowY := rfl
@[simp] theorem setReg_quad (k : BitVec 3) (v : Byte) : (setReg k v s).quad = s.quad := rfl
@[simp] theorem setReg_fb (k : BitVec 3) (v : Byte) : (setReg k v s).fb = s.fb := rfl
@[simp] theorem setReg_hs (k : BitVec 3) (v : Byte) : (setReg k v s).hs = s.hs := rfl
@[simp] theorem setReg_vs (k : BitVec 3) (v : Byte) : (setReg k v s).vs = s.vs := rfl
@[simp] theorem setReg_adOut (k : BitVec 3) (v : Byte) : (setReg k v s).adOut = s.adOut := rfl
@[simp] theorem setReg_adDriven (k : BitVec 3) (v : Byte) : (setReg k v s).adDriven = s.adDriven := rfl
@[simp] theorem setReg_vram (k : BitVec 3) (v : Byte) : (setReg k v s).vram = s.vram := rfl
@[simp] theorem setReg_tape (k : BitVec 3) (v : Byte) : (setReg k v s).tape = s.tape := rfl
@[simp] theorem setReg_fault (k : BitVec 3) (v : Byte) : (setReg k v s).fault = s.fault := rfl
@[simp] theorem setReg_log (k : BitVec 3) (v : Byte) : (setReg k v s).log = s.log := rfl
@[simp] theorem setReg_cpuPins (k : BitVec 3) (v : Byte) : (setReg k v s).cpuPins = s.cpuPins := rfl
@[simp] theorem setReg_tickCount (k : BitVec 3) (v : Byte) : (setReg k v s).tickCount = s.tickCount := rfl
@[simp] theorem setReg_stopFlag (k : BitVec 3) (v : Byte) : (setReg k v s).stopFlag = s.stopFlag := rfl
@[simp] theorem setReg_config (k : BitVec 3) (v : Byte) : (setReg k v s).config = s.config := rfl
@[simp] theorem setReg_pins (k : BitVec 3) (v : Byte) : (setReg k v s).pins = s.pins := rfl
@[simp] theorem setReg_bus (k : BitVec 3) (v : Byte) : (setReg k v s).bus = s.bus := rfl
@[simp] theorem setReg_cpu (k : BitVec 3) (v : Byte) : (setReg k v s).cpu = s.cpu := rfl
@[simp] theorem setReg_script (k : BitVec 3) (v : Byte) : (setReg k v s).script = s.script := rfl
@[simp] theorem setReg_outside (k : BitVec 3) (v : Byte) : (setReg k v s).outside = s.outside := rfl
@[simp] theorem setReg_result (k : BitVec 3) (v : Byte) : (setReg k v s).result = s.result := rfl

/-! ### setIReg -/

@[simp] theorem setIReg_r (k : BitVec 3) (v : Byte) : (setIReg k v s).r = s.r := rfl
@[simp] theorem setIReg_ir (k : BitVec 3) (v : Byte) : (setIReg k v s).ir = s.ir.set k.toNat v k.isLt := rfl
@[simp] theorem setIReg_cfg (k : BitVec 3) (v : Byte) : (setIReg k v s).cfg = s.cfg := rfl
@[simp] theorem setIReg_tickInLine (k : BitVec 3) (v : Byte) : (setIReg k v s).tickInLine = s.tickInLine := rfl
@[simp] theorem setIReg_line (k : BitVec 3) (v : Byte) : (setIReg k v s).line = s.line := rfl
@[simp] theorem setIReg_addrLatch (k : BitVec 3) (v : Byte) : (setIReg k v s).addrLatch = s.addrLatch := rfl
@[simp] theorem setIReg_dsLatch (k : BitVec 3) (v : Byte) : (setIReg k v s).dsLatch = s.dsLatch := rfl
@[simp] theorem setIReg_xqLatch (k : BitVec 3) (v : Byte) : (setIReg k v s).xqLatch = s.xqLatch := rfl
@[simp] theorem setIReg_prevAs (k : BitVec 3) (v : Byte) : (setIReg k v s).prevAs = s.prevAs := rfl
@[simp] theorem setIReg_prevDs (k : BitVec 3) (v : Byte) : (setIReg k v s).prevDs = s.prevDs := rfl
@[simp] theorem setIReg_prevRw (k : BitVec 3) (v : Byte) : (setIReg k v s).prevRw = s.prevRw := rfl
@[simp] theorem setIReg_rowbuf (k : BitVec 3) (v : Byte) : (setIReg k v s).rowbuf = s.rowbuf := rfl
@[simp] theorem setIReg_rowY (k : BitVec 3) (v : Byte) : (setIReg k v s).rowY = s.rowY := rfl
@[simp] theorem setIReg_quad (k : BitVec 3) (v : Byte) : (setIReg k v s).quad = s.quad := rfl
@[simp] theorem setIReg_fb (k : BitVec 3) (v : Byte) : (setIReg k v s).fb = s.fb := rfl
@[simp] theorem setIReg_hs (k : BitVec 3) (v : Byte) : (setIReg k v s).hs = s.hs := rfl
@[simp] theorem setIReg_vs (k : BitVec 3) (v : Byte) : (setIReg k v s).vs = s.vs := rfl
@[simp] theorem setIReg_adOut (k : BitVec 3) (v : Byte) : (setIReg k v s).adOut = s.adOut := rfl
@[simp] theorem setIReg_adDriven (k : BitVec 3) (v : Byte) : (setIReg k v s).adDriven = s.adDriven := rfl
@[simp] theorem setIReg_vram (k : BitVec 3) (v : Byte) : (setIReg k v s).vram = s.vram := rfl
@[simp] theorem setIReg_tape (k : BitVec 3) (v : Byte) : (setIReg k v s).tape = s.tape := rfl
@[simp] theorem setIReg_fault (k : BitVec 3) (v : Byte) : (setIReg k v s).fault = s.fault := rfl
@[simp] theorem setIReg_log (k : BitVec 3) (v : Byte) : (setIReg k v s).log = s.log := rfl
@[simp] theorem setIReg_cpuPins (k : BitVec 3) (v : Byte) : (setIReg k v s).cpuPins = s.cpuPins := rfl
@[simp] theorem setIReg_tickCount (k : BitVec 3) (v : Byte) : (setIReg k v s).tickCount = s.tickCount := rfl
@[simp] theorem setIReg_stopFlag (k : BitVec 3) (v : Byte) : (setIReg k v s).stopFlag = s.stopFlag := rfl
@[simp] theorem setIReg_config (k : BitVec 3) (v : Byte) : (setIReg k v s).config = s.config := rfl
@[simp] theorem setIReg_pins (k : BitVec 3) (v : Byte) : (setIReg k v s).pins = s.pins := rfl
@[simp] theorem setIReg_bus (k : BitVec 3) (v : Byte) : (setIReg k v s).bus = s.bus := rfl
@[simp] theorem setIReg_cpu (k : BitVec 3) (v : Byte) : (setIReg k v s).cpu = s.cpu := rfl
@[simp] theorem setIReg_script (k : BitVec 3) (v : Byte) : (setIReg k v s).script = s.script := rfl
@[simp] theorem setIReg_outside (k : BitVec 3) (v : Byte) : (setIReg k v s).outside = s.outside := rfl
@[simp] theorem setIReg_result (k : BitVec 3) (v : Byte) : (setIReg k v s).result = s.result := rfl

/-! ### recompute -/

@[simp] theorem recompute_r : (recompute s).r = s.r := rfl
@[simp] theorem recompute_ir : (recompute s).ir = s.ir := rfl
@[simp] theorem recompute_cfg : (recompute s).cfg = derive s.ir := rfl
@[simp] theorem recompute_tickInLine : (recompute s).tickInLine = s.tickInLine := rfl
@[simp] theorem recompute_line : (recompute s).line = s.line := rfl
@[simp] theorem recompute_addrLatch : (recompute s).addrLatch = s.addrLatch := rfl
@[simp] theorem recompute_dsLatch : (recompute s).dsLatch = s.dsLatch := rfl
@[simp] theorem recompute_xqLatch : (recompute s).xqLatch = s.xqLatch := rfl
@[simp] theorem recompute_prevAs : (recompute s).prevAs = s.prevAs := rfl
@[simp] theorem recompute_prevDs : (recompute s).prevDs = s.prevDs := rfl
@[simp] theorem recompute_prevRw : (recompute s).prevRw = s.prevRw := rfl
@[simp] theorem recompute_rowbuf : (recompute s).rowbuf = s.rowbuf := rfl
@[simp] theorem recompute_rowY : (recompute s).rowY = s.rowY := rfl
@[simp] theorem recompute_quad : (recompute s).quad = s.quad := rfl
@[simp] theorem recompute_fb : (recompute s).fb = s.fb := rfl
@[simp] theorem recompute_hs : (recompute s).hs = s.hs := rfl
@[simp] theorem recompute_vs : (recompute s).vs = s.vs := rfl
@[simp] theorem recompute_adOut : (recompute s).adOut = s.adOut := rfl
@[simp] theorem recompute_adDriven : (recompute s).adDriven = s.adDriven := rfl
@[simp] theorem recompute_vram : (recompute s).vram = s.vram := rfl
@[simp] theorem recompute_tape : (recompute s).tape = s.tape := rfl
@[simp] theorem recompute_fault : (recompute s).fault = s.fault := rfl
@[simp] theorem recompute_log : (recompute s).log = s.log := rfl
@[simp] theorem recompute_cpuPins : (recompute s).cpuPins = s.cpuPins := rfl
@[simp] theorem recompute_tickCount : (recompute s).tickCount = s.tickCount := rfl
@[simp] theorem recompute_stopFlag : (recompute s).stopFlag = s.stopFlag := rfl
@[simp] theorem recompute_config : (recompute s).config = s.config := rfl
@[simp] theorem recompute_pins : (recompute s).pins = s.pins := rfl
@[simp] theorem recompute_bus : (recompute s).bus = s.bus := rfl
@[simp] theorem recompute_cpu : (recompute s).cpu = s.cpu := rfl
@[simp] theorem recompute_script : (recompute s).script = s.script := rfl
@[simp] theorem recompute_outside : (recompute s).outside = s.outside := rfl
@[simp] theorem recompute_result : (recompute s).result = s.result := rfl

/-! ### vramWrite -/

@[simp] theorem vramWrite_r (a : BitVec 13) (v : Byte) : (vramWrite a v s).r = s.r := rfl
@[simp] theorem vramWrite_ir (a : BitVec 13) (v : Byte) : (vramWrite a v s).ir = s.ir := rfl
@[simp] theorem vramWrite_cfg (a : BitVec 13) (v : Byte) : (vramWrite a v s).cfg = s.cfg := rfl
@[simp] theorem vramWrite_tickInLine (a : BitVec 13) (v : Byte) : (vramWrite a v s).tickInLine = s.tickInLine := rfl
@[simp] theorem vramWrite_line (a : BitVec 13) (v : Byte) : (vramWrite a v s).line = s.line := rfl
@[simp] theorem vramWrite_addrLatch (a : BitVec 13) (v : Byte) : (vramWrite a v s).addrLatch = s.addrLatch := rfl
@[simp] theorem vramWrite_dsLatch (a : BitVec 13) (v : Byte) : (vramWrite a v s).dsLatch = s.dsLatch := rfl
@[simp] theorem vramWrite_xqLatch (a : BitVec 13) (v : Byte) : (vramWrite a v s).xqLatch = s.xqLatch := rfl
@[simp] theorem vramWrite_prevAs (a : BitVec 13) (v : Byte) : (vramWrite a v s).prevAs = s.prevAs := rfl
@[simp] theorem vramWrite_prevDs (a : BitVec 13) (v : Byte) : (vramWrite a v s).prevDs = s.prevDs := rfl
@[simp] theorem vramWrite_prevRw (a : BitVec 13) (v : Byte) : (vramWrite a v s).prevRw = s.prevRw := rfl
@[simp] theorem vramWrite_rowbuf (a : BitVec 13) (v : Byte) : (vramWrite a v s).rowbuf = s.rowbuf := rfl
@[simp] theorem vramWrite_rowY (a : BitVec 13) (v : Byte) : (vramWrite a v s).rowY = s.rowY := rfl
@[simp] theorem vramWrite_quad (a : BitVec 13) (v : Byte) : (vramWrite a v s).quad = s.quad := rfl
@[simp] theorem vramWrite_fb (a : BitVec 13) (v : Byte) : (vramWrite a v s).fb = s.fb := rfl
@[simp] theorem vramWrite_hs (a : BitVec 13) (v : Byte) : (vramWrite a v s).hs = s.hs := rfl
@[simp] theorem vramWrite_vs (a : BitVec 13) (v : Byte) : (vramWrite a v s).vs = s.vs := rfl
@[simp] theorem vramWrite_adOut (a : BitVec 13) (v : Byte) : (vramWrite a v s).adOut = s.adOut := rfl
@[simp] theorem vramWrite_adDriven (a : BitVec 13) (v : Byte) : (vramWrite a v s).adDriven = s.adDriven := rfl
@[simp] theorem vramWrite_vram (a : BitVec 13) (v : Byte) : (vramWrite a v s).vram = s.vram.write a.toNat v := rfl
@[simp] theorem vramWrite_tape (a : BitVec 13) (v : Byte) : (vramWrite a v s).tape = s.tape := rfl
@[simp] theorem vramWrite_fault (a : BitVec 13) (v : Byte) : (vramWrite a v s).fault = s.fault := rfl
@[simp] theorem vramWrite_log (a : BitVec 13) (v : Byte) : (vramWrite a v s).log = s.log := rfl
@[simp] theorem vramWrite_cpuPins (a : BitVec 13) (v : Byte) : (vramWrite a v s).cpuPins = s.cpuPins := rfl
@[simp] theorem vramWrite_tickCount (a : BitVec 13) (v : Byte) : (vramWrite a v s).tickCount = s.tickCount := rfl
@[simp] theorem vramWrite_stopFlag (a : BitVec 13) (v : Byte) : (vramWrite a v s).stopFlag = s.stopFlag := rfl
@[simp] theorem vramWrite_config (a : BitVec 13) (v : Byte) : (vramWrite a v s).config = s.config := rfl
@[simp] theorem vramWrite_pins (a : BitVec 13) (v : Byte) : (vramWrite a v s).pins = s.pins := rfl
@[simp] theorem vramWrite_bus (a : BitVec 13) (v : Byte) : (vramWrite a v s).bus = s.bus := rfl
@[simp] theorem vramWrite_cpu (a : BitVec 13) (v : Byte) : (vramWrite a v s).cpu = s.cpu := rfl
@[simp] theorem vramWrite_script (a : BitVec 13) (v : Byte) : (vramWrite a v s).script = s.script := rfl
@[simp] theorem vramWrite_outside (a : BitVec 13) (v : Byte) : (vramWrite a v s).outside = s.outside := rfl
@[simp] theorem vramWrite_result (a : BitVec 13) (v : Byte) : (vramWrite a v s).result = s.result := rfl

/-! ### fbWrite -/

@[simp] theorem fbWrite_r (x y : Nat) (k : BitVec 3) : (fbWrite x y k s).r = s.r := rfl
@[simp] theorem fbWrite_ir (x y : Nat) (k : BitVec 3) : (fbWrite x y k s).ir = s.ir := rfl
@[simp] theorem fbWrite_cfg (x y : Nat) (k : BitVec 3) : (fbWrite x y k s).cfg = s.cfg := rfl
@[simp] theorem fbWrite_tickInLine (x y : Nat) (k : BitVec 3) : (fbWrite x y k s).tickInLine = s.tickInLine := rfl
@[simp] theorem fbWrite_line (x y : Nat) (k : BitVec 3) : (fbWrite x y k s).line = s.line := rfl
@[simp] theorem fbWrite_addrLatch (x y : Nat) (k : BitVec 3) : (fbWrite x y k s).addrLatch = s.addrLatch := rfl
@[simp] theorem fbWrite_dsLatch (x y : Nat) (k : BitVec 3) : (fbWrite x y k s).dsLatch = s.dsLatch := rfl
@[simp] theorem fbWrite_xqLatch (x y : Nat) (k : BitVec 3) : (fbWrite x y k s).xqLatch = s.xqLatch := rfl
@[simp] theorem fbWrite_prevAs (x y : Nat) (k : BitVec 3) : (fbWrite x y k s).prevAs = s.prevAs := rfl
@[simp] theorem fbWrite_prevDs (x y : Nat) (k : BitVec 3) : (fbWrite x y k s).prevDs = s.prevDs := rfl
@[simp] theorem fbWrite_prevRw (x y : Nat) (k : BitVec 3) : (fbWrite x y k s).prevRw = s.prevRw := rfl
@[simp] theorem fbWrite_rowbuf (x y : Nat) (k : BitVec 3) : (fbWrite x y k s).rowbuf = s.rowbuf := rfl
@[simp] theorem fbWrite_rowY (x y : Nat) (k : BitVec 3) : (fbWrite x y k s).rowY = s.rowY := rfl
@[simp] theorem fbWrite_quad (x y : Nat) (k : BitVec 3) : (fbWrite x y k s).quad = s.quad := rfl
@[simp] theorem fbWrite_fb (x y : Nat) (k : BitVec 3) : (fbWrite x y k s).fb = s.fb.write (y * fbWidth + x) (k.setWidth 8) := rfl
@[simp] theorem fbWrite_hs (x y : Nat) (k : BitVec 3) : (fbWrite x y k s).hs = s.hs := rfl
@[simp] theorem fbWrite_vs (x y : Nat) (k : BitVec 3) : (fbWrite x y k s).vs = s.vs := rfl
@[simp] theorem fbWrite_adOut (x y : Nat) (k : BitVec 3) : (fbWrite x y k s).adOut = s.adOut := rfl
@[simp] theorem fbWrite_adDriven (x y : Nat) (k : BitVec 3) : (fbWrite x y k s).adDriven = s.adDriven := rfl
@[simp] theorem fbWrite_vram (x y : Nat) (k : BitVec 3) : (fbWrite x y k s).vram = s.vram := rfl
@[simp] theorem fbWrite_tape (x y : Nat) (k : BitVec 3) : (fbWrite x y k s).tape = s.tape := rfl
@[simp] theorem fbWrite_fault (x y : Nat) (k : BitVec 3) : (fbWrite x y k s).fault = s.fault := rfl
@[simp] theorem fbWrite_log (x y : Nat) (k : BitVec 3) : (fbWrite x y k s).log = s.log := rfl
@[simp] theorem fbWrite_cpuPins (x y : Nat) (k : BitVec 3) : (fbWrite x y k s).cpuPins = s.cpuPins := rfl
@[simp] theorem fbWrite_tickCount (x y : Nat) (k : BitVec 3) : (fbWrite x y k s).tickCount = s.tickCount := rfl
@[simp] theorem fbWrite_stopFlag (x y : Nat) (k : BitVec 3) : (fbWrite x y k s).stopFlag = s.stopFlag := rfl
@[simp] theorem fbWrite_config (x y : Nat) (k : BitVec 3) : (fbWrite x y k s).config = s.config := rfl
@[simp] theorem fbWrite_pins (x y : Nat) (k : BitVec 3) : (fbWrite x y k s).pins = s.pins := rfl
@[simp] theorem fbWrite_bus (x y : Nat) (k : BitVec 3) : (fbWrite x y k s).bus = s.bus := rfl
@[simp] theorem fbWrite_cpu (x y : Nat) (k : BitVec 3) : (fbWrite x y k s).cpu = s.cpu := rfl
@[simp] theorem fbWrite_script (x y : Nat) (k : BitVec 3) : (fbWrite x y k s).script = s.script := rfl
@[simp] theorem fbWrite_outside (x y : Nat) (k : BitVec 3) : (fbWrite x y k s).outside = s.outside := rfl
@[simp] theorem fbWrite_result (x y : Nat) (k : BitVec 3) : (fbWrite x y k s).result = s.result := rfl

/-! ### logEvent -/

@[simp] theorem logEvent_r (e : LogEvent) : (logEvent e s).r = s.r := rfl
@[simp] theorem logEvent_ir (e : LogEvent) : (logEvent e s).ir = s.ir := rfl
@[simp] theorem logEvent_cfg (e : LogEvent) : (logEvent e s).cfg = s.cfg := rfl
@[simp] theorem logEvent_tickInLine (e : LogEvent) : (logEvent e s).tickInLine = s.tickInLine := rfl
@[simp] theorem logEvent_line (e : LogEvent) : (logEvent e s).line = s.line := rfl
@[simp] theorem logEvent_addrLatch (e : LogEvent) : (logEvent e s).addrLatch = s.addrLatch := rfl
@[simp] theorem logEvent_dsLatch (e : LogEvent) : (logEvent e s).dsLatch = s.dsLatch := rfl
@[simp] theorem logEvent_xqLatch (e : LogEvent) : (logEvent e s).xqLatch = s.xqLatch := rfl
@[simp] theorem logEvent_prevAs (e : LogEvent) : (logEvent e s).prevAs = s.prevAs := rfl
@[simp] theorem logEvent_prevDs (e : LogEvent) : (logEvent e s).prevDs = s.prevDs := rfl
@[simp] theorem logEvent_prevRw (e : LogEvent) : (logEvent e s).prevRw = s.prevRw := rfl
@[simp] theorem logEvent_rowbuf (e : LogEvent) : (logEvent e s).rowbuf = s.rowbuf := rfl
@[simp] theorem logEvent_rowY (e : LogEvent) : (logEvent e s).rowY = s.rowY := rfl
@[simp] theorem logEvent_quad (e : LogEvent) : (logEvent e s).quad = s.quad := rfl
@[simp] theorem logEvent_fb (e : LogEvent) : (logEvent e s).fb = s.fb := rfl
@[simp] theorem logEvent_hs (e : LogEvent) : (logEvent e s).hs = s.hs := rfl
@[simp] theorem logEvent_vs (e : LogEvent) : (logEvent e s).vs = s.vs := rfl
@[simp] theorem logEvent_adOut (e : LogEvent) : (logEvent e s).adOut = s.adOut := rfl
@[simp] theorem logEvent_adDriven (e : LogEvent) : (logEvent e s).adDriven = s.adDriven := rfl
@[simp] theorem logEvent_vram (e : LogEvent) : (logEvent e s).vram = s.vram := rfl
@[simp] theorem logEvent_tape (e : LogEvent) : (logEvent e s).tape = s.tape := rfl
@[simp] theorem logEvent_fault (e : LogEvent) : (logEvent e s).fault = s.fault := rfl
@[simp] theorem logEvent_log (e : LogEvent) : (logEvent e s).log = s.log ++ [e] := rfl
@[simp] theorem logEvent_cpuPins (e : LogEvent) : (logEvent e s).cpuPins = s.cpuPins := rfl
@[simp] theorem logEvent_tickCount (e : LogEvent) : (logEvent e s).tickCount = s.tickCount := rfl
@[simp] theorem logEvent_stopFlag (e : LogEvent) : (logEvent e s).stopFlag = s.stopFlag := rfl
@[simp] theorem logEvent_config (e : LogEvent) : (logEvent e s).config = s.config := rfl
@[simp] theorem logEvent_pins (e : LogEvent) : (logEvent e s).pins = s.pins := rfl
@[simp] theorem logEvent_bus (e : LogEvent) : (logEvent e s).bus = s.bus := rfl
@[simp] theorem logEvent_cpu (e : LogEvent) : (logEvent e s).cpu = s.cpu := rfl
@[simp] theorem logEvent_script (e : LogEvent) : (logEvent e s).script = s.script := rfl
@[simp] theorem logEvent_outside (e : LogEvent) : (logEvent e s).outside = s.outside := rfl
@[simp] theorem logEvent_result (e : LogEvent) : (logEvent e s).result = s.result := rfl

/-! ### setResult -/

@[simp] theorem setResult_r (x : HostResult) : (setResult x s).r = s.r := rfl
@[simp] theorem setResult_ir (x : HostResult) : (setResult x s).ir = s.ir := rfl
@[simp] theorem setResult_cfg (x : HostResult) : (setResult x s).cfg = s.cfg := rfl
@[simp] theorem setResult_tickInLine (x : HostResult) : (setResult x s).tickInLine = s.tickInLine := rfl
@[simp] theorem setResult_line (x : HostResult) : (setResult x s).line = s.line := rfl
@[simp] theorem setResult_addrLatch (x : HostResult) : (setResult x s).addrLatch = s.addrLatch := rfl
@[simp] theorem setResult_dsLatch (x : HostResult) : (setResult x s).dsLatch = s.dsLatch := rfl
@[simp] theorem setResult_xqLatch (x : HostResult) : (setResult x s).xqLatch = s.xqLatch := rfl
@[simp] theorem setResult_prevAs (x : HostResult) : (setResult x s).prevAs = s.prevAs := rfl
@[simp] theorem setResult_prevDs (x : HostResult) : (setResult x s).prevDs = s.prevDs := rfl
@[simp] theorem setResult_prevRw (x : HostResult) : (setResult x s).prevRw = s.prevRw := rfl
@[simp] theorem setResult_rowbuf (x : HostResult) : (setResult x s).rowbuf = s.rowbuf := rfl
@[simp] theorem setResult_rowY (x : HostResult) : (setResult x s).rowY = s.rowY := rfl
@[simp] theorem setResult_quad (x : HostResult) : (setResult x s).quad = s.quad := rfl
@[simp] theorem setResult_fb (x : HostResult) : (setResult x s).fb = s.fb := rfl
@[simp] theorem setResult_hs (x : HostResult) : (setResult x s).hs = s.hs := rfl
@[simp] theorem setResult_vs (x : HostResult) : (setResult x s).vs = s.vs := rfl
@[simp] theorem setResult_adOut (x : HostResult) : (setResult x s).adOut = s.adOut := rfl
@[simp] theorem setResult_adDriven (x : HostResult) : (setResult x s).adDriven = s.adDriven := rfl
@[simp] theorem setResult_vram (x : HostResult) : (setResult x s).vram = s.vram := rfl
@[simp] theorem setResult_tape (x : HostResult) : (setResult x s).tape = s.tape := rfl
@[simp] theorem setResult_fault (x : HostResult) : (setResult x s).fault = s.fault := rfl
@[simp] theorem setResult_log (x : HostResult) : (setResult x s).log = s.log := rfl
@[simp] theorem setResult_cpuPins (x : HostResult) : (setResult x s).cpuPins = s.cpuPins := rfl
@[simp] theorem setResult_tickCount (x : HostResult) : (setResult x s).tickCount = s.tickCount := rfl
@[simp] theorem setResult_stopFlag (x : HostResult) : (setResult x s).stopFlag = s.stopFlag := rfl
@[simp] theorem setResult_config (x : HostResult) : (setResult x s).config = s.config := rfl
@[simp] theorem setResult_pins (x : HostResult) : (setResult x s).pins = s.pins := rfl
@[simp] theorem setResult_bus (x : HostResult) : (setResult x s).bus = s.bus := rfl
@[simp] theorem setResult_cpu (x : HostResult) : (setResult x s).cpu = s.cpu := rfl
@[simp] theorem setResult_script (x : HostResult) : (setResult x s).script = s.script := rfl
@[simp] theorem setResult_outside (x : HostResult) : (setResult x s).outside = s.outside := rfl
@[simp] theorem setResult_result (x : HostResult) : (setResult x s).result = x := rfl

/-! ### bumpFree -/

@[simp] theorem bumpFree_r : (bumpFree s).r = s.r := rfl
@[simp] theorem bumpFree_ir : (bumpFree s).ir = s.ir := rfl
@[simp] theorem bumpFree_cfg : (bumpFree s).cfg = s.cfg := rfl
@[simp] theorem bumpFree_tickInLine : (bumpFree s).tickInLine = s.tickInLine := rfl
@[simp] theorem bumpFree_line : (bumpFree s).line = s.line := rfl
@[simp] theorem bumpFree_addrLatch : (bumpFree s).addrLatch = s.addrLatch := rfl
@[simp] theorem bumpFree_dsLatch : (bumpFree s).dsLatch = s.dsLatch := rfl
@[simp] theorem bumpFree_xqLatch : (bumpFree s).xqLatch = s.xqLatch := rfl
@[simp] theorem bumpFree_prevAs : (bumpFree s).prevAs = s.prevAs := rfl
@[simp] theorem bumpFree_prevDs : (bumpFree s).prevDs = s.prevDs := rfl
@[simp] theorem bumpFree_prevRw : (bumpFree s).prevRw = s.prevRw := rfl
@[simp] theorem bumpFree_rowbuf : (bumpFree s).rowbuf = s.rowbuf := rfl
@[simp] theorem bumpFree_rowY : (bumpFree s).rowY = s.rowY := rfl
@[simp] theorem bumpFree_quad : (bumpFree s).quad = s.quad := rfl
@[simp] theorem bumpFree_fb : (bumpFree s).fb = s.fb := rfl
@[simp] theorem bumpFree_hs : (bumpFree s).hs = s.hs := rfl
@[simp] theorem bumpFree_vs : (bumpFree s).vs = s.vs := rfl
@[simp] theorem bumpFree_adOut : (bumpFree s).adOut = s.adOut := rfl
@[simp] theorem bumpFree_adDriven : (bumpFree s).adDriven = s.adDriven := rfl
@[simp] theorem bumpFree_vram : (bumpFree s).vram = s.vram := rfl
@[simp] theorem bumpFree_tape : (bumpFree s).tape = s.tape := rfl
@[simp] theorem bumpFree_fault : (bumpFree s).fault = s.fault := rfl
@[simp] theorem bumpFree_log : (bumpFree s).log = s.log := rfl
@[simp] theorem bumpFree_cpuPins : (bumpFree s).cpuPins = s.cpuPins := rfl
@[simp] theorem bumpFree_tickCount : (bumpFree s).tickCount = s.tickCount := rfl
@[simp] theorem bumpFree_stopFlag : (bumpFree s).stopFlag = s.stopFlag := rfl
@[simp] theorem bumpFree_config : (bumpFree s).config = s.config := rfl
@[simp] theorem bumpFree_pins : (bumpFree s).pins = s.pins := rfl
@[simp] theorem bumpFree_bus : (bumpFree s).bus = s.bus := rfl
@[simp] theorem bumpFree_cpu : (bumpFree s).cpu = s.cpu := rfl
@[simp] theorem bumpFree_script : (bumpFree s).script = s.script := rfl
@[simp] theorem bumpFree_result : (bumpFree s).result = s.result := rfl

/-! ### dropWord -/

@[simp] theorem dropWord_r : (dropWord s).r = s.r := rfl
@[simp] theorem dropWord_ir : (dropWord s).ir = s.ir := rfl
@[simp] theorem dropWord_cfg : (dropWord s).cfg = s.cfg := rfl
@[simp] theorem dropWord_tickInLine : (dropWord s).tickInLine = s.tickInLine := rfl
@[simp] theorem dropWord_line : (dropWord s).line = s.line := rfl
@[simp] theorem dropWord_addrLatch : (dropWord s).addrLatch = s.addrLatch := rfl
@[simp] theorem dropWord_dsLatch : (dropWord s).dsLatch = s.dsLatch := rfl
@[simp] theorem dropWord_xqLatch : (dropWord s).xqLatch = s.xqLatch := rfl
@[simp] theorem dropWord_prevAs : (dropWord s).prevAs = s.prevAs := rfl
@[simp] theorem dropWord_prevDs : (dropWord s).prevDs = s.prevDs := rfl
@[simp] theorem dropWord_prevRw : (dropWord s).prevRw = s.prevRw := rfl
@[simp] theorem dropWord_rowbuf : (dropWord s).rowbuf = s.rowbuf := rfl
@[simp] theorem dropWord_rowY : (dropWord s).rowY = s.rowY := rfl
@[simp] theorem dropWord_quad : (dropWord s).quad = s.quad := rfl
@[simp] theorem dropWord_fb : (dropWord s).fb = s.fb := rfl
@[simp] theorem dropWord_hs : (dropWord s).hs = s.hs := rfl
@[simp] theorem dropWord_vs : (dropWord s).vs = s.vs := rfl
@[simp] theorem dropWord_adOut : (dropWord s).adOut = s.adOut := rfl
@[simp] theorem dropWord_adDriven : (dropWord s).adDriven = s.adDriven := rfl
@[simp] theorem dropWord_vram : (dropWord s).vram = s.vram := rfl
@[simp] theorem dropWord_tape : (dropWord s).tape = s.tape := rfl
@[simp] theorem dropWord_fault : (dropWord s).fault = s.fault := rfl
@[simp] theorem dropWord_log : (dropWord s).log = s.log := rfl
@[simp] theorem dropWord_cpuPins : (dropWord s).cpuPins = s.cpuPins := rfl
@[simp] theorem dropWord_tickCount : (dropWord s).tickCount = s.tickCount := rfl
@[simp] theorem dropWord_stopFlag : (dropWord s).stopFlag = s.stopFlag := rfl
@[simp] theorem dropWord_config : (dropWord s).config = s.config := rfl
@[simp] theorem dropWord_pins : (dropWord s).pins = s.pins := rfl
@[simp] theorem dropWord_bus : (dropWord s).bus = s.bus := rfl
@[simp] theorem dropWord_cpu : (dropWord s).cpu = s.cpu := rfl
@[simp] theorem dropWord_script : (dropWord s).script = s.script.tail := rfl
@[simp] theorem dropWord_outside : (dropWord s).outside = s.outside := rfl
@[simp] theorem dropWord_result : (dropWord s).result = s.result := rfl

/-! ### hostTurn -/

@[simp] theorem hostTurn_r : (hostTurn s).r = s.r := rfl
@[simp] theorem hostTurn_ir : (hostTurn s).ir = s.ir := rfl
@[simp] theorem hostTurn_cfg : (hostTurn s).cfg = s.cfg := rfl
@[simp] theorem hostTurn_tickInLine : (hostTurn s).tickInLine = s.tickInLine := rfl
@[simp] theorem hostTurn_line : (hostTurn s).line = s.line := rfl
@[simp] theorem hostTurn_addrLatch : (hostTurn s).addrLatch = s.addrLatch := rfl
@[simp] theorem hostTurn_dsLatch : (hostTurn s).dsLatch = s.dsLatch := rfl
@[simp] theorem hostTurn_xqLatch : (hostTurn s).xqLatch = s.xqLatch := rfl
@[simp] theorem hostTurn_prevAs : (hostTurn s).prevAs = s.prevAs := rfl
@[simp] theorem hostTurn_prevDs : (hostTurn s).prevDs = s.prevDs := rfl
@[simp] theorem hostTurn_prevRw : (hostTurn s).prevRw = s.prevRw := rfl
@[simp] theorem hostTurn_rowbuf : (hostTurn s).rowbuf = s.rowbuf := rfl
@[simp] theorem hostTurn_rowY : (hostTurn s).rowY = s.rowY := rfl
@[simp] theorem hostTurn_quad : (hostTurn s).quad = s.quad := rfl
@[simp] theorem hostTurn_fb : (hostTurn s).fb = s.fb := rfl
@[simp] theorem hostTurn_hs : (hostTurn s).hs = s.hs := rfl
@[simp] theorem hostTurn_vs : (hostTurn s).vs = s.vs := rfl
@[simp] theorem hostTurn_adOut : (hostTurn s).adOut = s.adOut := rfl
@[simp] theorem hostTurn_adDriven : (hostTurn s).adDriven = s.adDriven := rfl
@[simp] theorem hostTurn_vram : (hostTurn s).vram = s.vram := rfl
@[simp] theorem hostTurn_tape : (hostTurn s).tape = s.tape := rfl
@[simp] theorem hostTurn_fault : (hostTurn s).fault = s.fault := rfl
@[simp] theorem hostTurn_log : (hostTurn s).log = s.log := rfl
@[simp] theorem hostTurn_cpuPins : (hostTurn s).cpuPins = s.cpuPins := rfl
@[simp] theorem hostTurn_tickCount : (hostTurn s).tickCount = s.tickCount := rfl
@[simp] theorem hostTurn_stopFlag : (hostTurn s).stopFlag = (s.stopFlag || s.outside.stopRequests.headD false) := rfl
@[simp] theorem hostTurn_config : (hostTurn s).config = s.config := rfl
@[simp] theorem hostTurn_pins : (hostTurn s).pins = s.pins := rfl
@[simp] theorem hostTurn_bus : (hostTurn s).bus = s.bus := rfl
@[simp] theorem hostTurn_cpu : (hostTurn s).cpu = s.cpu := rfl
@[simp] theorem hostTurn_script : (hostTurn s).script = s.script := rfl
@[simp] theorem hostTurn_outside : (hostTurn s).outside =
    ({ s.outside with stopRequests := s.outside.stopRequests.tail }) := rfl
@[simp] theorem hostTurn_result : (hostTurn s).result = s.result := rfl

/-! ### placeWord -/

@[simp] theorem placeWord_r (w : OpWord) : (placeWord w s).r = s.r := rfl
@[simp] theorem placeWord_ir (w : OpWord) : (placeWord w s).ir = s.ir := rfl
@[simp] theorem placeWord_cfg (w : OpWord) : (placeWord w s).cfg = s.cfg := rfl
@[simp] theorem placeWord_tickInLine (w : OpWord) : (placeWord w s).tickInLine = s.tickInLine := rfl
@[simp] theorem placeWord_line (w : OpWord) : (placeWord w s).line = s.line := rfl
@[simp] theorem placeWord_addrLatch (w : OpWord) : (placeWord w s).addrLatch = s.addrLatch := rfl
@[simp] theorem placeWord_dsLatch (w : OpWord) : (placeWord w s).dsLatch = s.dsLatch := rfl
@[simp] theorem placeWord_xqLatch (w : OpWord) : (placeWord w s).xqLatch = s.xqLatch := rfl
@[simp] theorem placeWord_prevAs (w : OpWord) : (placeWord w s).prevAs = s.prevAs := rfl
@[simp] theorem placeWord_prevDs (w : OpWord) : (placeWord w s).prevDs = s.prevDs := rfl
@[simp] theorem placeWord_prevRw (w : OpWord) : (placeWord w s).prevRw = s.prevRw := rfl
@[simp] theorem placeWord_rowbuf (w : OpWord) : (placeWord w s).rowbuf = s.rowbuf := rfl
@[simp] theorem placeWord_rowY (w : OpWord) : (placeWord w s).rowY = s.rowY := rfl
@[simp] theorem placeWord_quad (w : OpWord) : (placeWord w s).quad = s.quad := rfl
@[simp] theorem placeWord_fb (w : OpWord) : (placeWord w s).fb = s.fb := rfl
@[simp] theorem placeWord_hs (w : OpWord) : (placeWord w s).hs = s.hs := rfl
@[simp] theorem placeWord_vs (w : OpWord) : (placeWord w s).vs = s.vs := rfl
@[simp] theorem placeWord_adOut (w : OpWord) : (placeWord w s).adOut = s.adOut := rfl
@[simp] theorem placeWord_adDriven (w : OpWord) : (placeWord w s).adDriven = s.adDriven := rfl
@[simp] theorem placeWord_vram (w : OpWord) : (placeWord w s).vram = s.vram := rfl
@[simp] theorem placeWord_tape (w : OpWord) : (placeWord w s).tape = s.tape := rfl
@[simp] theorem placeWord_fault (w : OpWord) : (placeWord w s).fault = s.fault := rfl
@[simp] theorem placeWord_log (w : OpWord) : (placeWord w s).log = s.log := rfl
@[simp] theorem placeWord_cpuPins (w : OpWord) : (placeWord w s).cpuPins = s.cpuPins := rfl
@[simp] theorem placeWord_tickCount (w : OpWord) : (placeWord w s).tickCount = s.tickCount := rfl
@[simp] theorem placeWord_stopFlag (w : OpWord) : (placeWord w s).stopFlag = s.stopFlag := rfl
@[simp] theorem placeWord_config (w : OpWord) : (placeWord w s).config = s.config := rfl
@[simp] theorem placeWord_pins (w : OpWord) : (placeWord w s).pins = s.pins := rfl
@[simp] theorem placeWord_bus (w : OpWord) : (placeWord w s).bus = s.bus := rfl
@[simp] theorem placeWord_cpu (w : OpWord) : (placeWord w s).cpu = s.cpu := rfl
@[simp] theorem placeWord_script (w : OpWord) : (placeWord w s).script = w :: s.script := rfl
@[simp] theorem placeWord_outside (w : OpWord) : (placeWord w s).outside = s.outside := rfl
@[simp] theorem placeWord_result (w : OpWord) : (placeWord w s).result = s.result := rfl

/-! ### onTape -/

@[simp] theorem onTape_r (f : Tape → Tape) : (onTape f s).r = s.r := rfl
@[simp] theorem onTape_ir (f : Tape → Tape) : (onTape f s).ir = s.ir := rfl
@[simp] theorem onTape_cfg (f : Tape → Tape) : (onTape f s).cfg = s.cfg := rfl
@[simp] theorem onTape_tickInLine (f : Tape → Tape) : (onTape f s).tickInLine = s.tickInLine := rfl
@[simp] theorem onTape_line (f : Tape → Tape) : (onTape f s).line = s.line := rfl
@[simp] theorem onTape_addrLatch (f : Tape → Tape) : (onTape f s).addrLatch = s.addrLatch := rfl
@[simp] theorem onTape_dsLatch (f : Tape → Tape) : (onTape f s).dsLatch = s.dsLatch := rfl
@[simp] theorem onTape_xqLatch (f : Tape → Tape) : (onTape f s).xqLatch = s.xqLatch := rfl
@[simp] theorem onTape_prevAs (f : Tape → Tape) : (onTape f s).prevAs = s.prevAs := rfl
@[simp] theorem onTape_prevDs (f : Tape → Tape) : (onTape f s).prevDs = s.prevDs := rfl
@[simp] theorem onTape_prevRw (f : Tape → Tape) : (onTape f s).prevRw = s.prevRw := rfl
@[simp] theorem onTape_rowbuf (f : Tape → Tape) : (onTape f s).rowbuf = s.rowbuf := rfl
@[simp] theorem onTape_rowY (f : Tape → Tape) : (onTape f s).rowY = s.rowY := rfl
@[simp] theorem onTape_quad (f : Tape → Tape) : (onTape f s).quad = s.quad := rfl
@[simp] theorem onTape_fb (f : Tape → Tape) : (onTape f s).fb = s.fb := rfl
@[simp] theorem onTape_hs (f : Tape → Tape) : (onTape f s).hs = s.hs := rfl
@[simp] theorem onTape_vs (f : Tape → Tape) : (onTape f s).vs = s.vs := rfl
@[simp] theorem onTape_adOut (f : Tape → Tape) : (onTape f s).adOut = s.adOut := rfl
@[simp] theorem onTape_adDriven (f : Tape → Tape) : (onTape f s).adDriven = s.adDriven := rfl
@[simp] theorem onTape_vram (f : Tape → Tape) : (onTape f s).vram = s.vram := rfl
@[simp] theorem onTape_tape (f : Tape → Tape) : (onTape f s).tape = f s.tape := rfl
@[simp] theorem onTape_fault (f : Tape → Tape) : (onTape f s).fault = s.fault := rfl
@[simp] theorem onTape_log (f : Tape → Tape) : (onTape f s).log = s.log := rfl
@[simp] theorem onTape_cpuPins (f : Tape → Tape) : (onTape f s).cpuPins = s.cpuPins := rfl
@[simp] theorem onTape_tickCount (f : Tape → Tape) : (onTape f s).tickCount = s.tickCount := rfl
@[simp] theorem onTape_stopFlag (f : Tape → Tape) : (onTape f s).stopFlag = s.stopFlag := rfl
@[simp] theorem onTape_config (f : Tape → Tape) : (onTape f s).config = s.config := rfl
@[simp] theorem onTape_pins (f : Tape → Tape) : (onTape f s).pins = s.pins := rfl
@[simp] theorem onTape_bus (f : Tape → Tape) : (onTape f s).bus = s.bus := rfl
@[simp] theorem onTape_cpu (f : Tape → Tape) : (onTape f s).cpu = s.cpu := rfl
@[simp] theorem onTape_script (f : Tape → Tape) : (onTape f s).script = s.script := rfl
@[simp] theorem onTape_outside (f : Tape → Tape) : (onTape f s).outside = s.outside := rfl
@[simp] theorem onTape_result (f : Tape → Tape) : (onTape f s).result = s.result := rfl

end Sys2Proof.Machine
end

