-- ==== Sys2Proof/Laws/Memory.lean ====
section
/-! SUPPORT. The laws of byte memory: reading after writing, and the canonical form kept by every write. -/
namespace Sys2Proof.Machine

@[simp] theorem Memory.read_nil (a : Nat) : Memory.read [] a = memoryBlank := rfl

theorem Memory.read_cons (b : Nat) (w : Byte) (m : Memory) (a : Nat) :
    Memory.read ((b, w) :: m) a = if a = b then w else Memory.read m a := rfl

/-- In a rising memory an address below every listed one reads blank. -/
theorem Memory.read_below (m : Memory) (a : Nat) (h : m.all (fun cell => a < cell.1) = true) :
    Memory.read m a = memoryBlank := by
  induction m with
  | nil => rfl
  | cons hd m ih =>
    obtain ⟨b, w⟩ := hd
    simp only [List.all_cons, Bool.and_eq_true, decide_eq_true_eq] at h
    rw [Memory.read_cons, if_neg (by omega), ih h.2]

/-- The parts of the canonical form of a nonempty memory. -/
theorem Memory.wf_cons (a : Nat) (v : Byte) (m : Memory) :
    Memory.wf ((a, v) :: m) = true ↔ v ≠ memoryBlank ∧ m.all (fun cell => a < cell.1) = true ∧ Memory.wf m = true := by
  simp [Memory.wf, Bool.and_eq_true, and_assoc]

/-- A predicate on cells that the written cell satisfies is kept by a write. -/
theorem Memory.all_write (m : Memory) (a : Nat) (v : Byte) (q : Host.Cell → Bool) (hq : q (a, v) = true)
    (h : m.all q = true) : (Memory.write m a v).all q = true := by
  induction m with
  | nil => simp only [Memory.write]; split <;> simp [hq]
  | cons hd m ih =>
    obtain ⟨c, w⟩ := hd
    simp only [List.all_cons, Bool.and_eq_true] at h
    simp only [Memory.write]
    split
    · split <;> simp_all
    · split
      · split <;> simp_all
      · simp [h.1, ih h.2]

/-- A bound below every listed address stays below after a write above it. -/
theorem Memory.write_above (m : Memory) (a b : Nat) (v : Byte) (hab : a < b)
    (h : m.all (fun cell => a < cell.1) = true) : (Memory.write m b v).all (fun cell => a < cell.1) = true :=
  Memory.all_write m b v _ (by simpa using hab) h

/-- Every write keeps the canonical form. -/
theorem Memory.wf_write (m : Memory) (a : Nat) (v : Byte) (h : m.wf = true) : (Memory.write m a v).wf = true := by
  induction m with
  | nil =>
    simp only [Memory.write]
    split
    · rfl
    · rw [Memory.wf_cons]; simp_all [Memory.wf]
  | cons hd m ih =>
    obtain ⟨b, w⟩ := hd
    have hb := (Memory.wf_cons b w m).1 h
    simp only [Memory.write]
    split
    · next hlt =>
      split
      · exact h
      · next hv =>
        refine (Memory.wf_cons _ _ _).2 ⟨hv, ?_, h⟩
        simp only [List.all_cons, Bool.and_eq_true, decide_eq_true_eq]
        refine ⟨hlt, List.all_eq_true.2 fun cell hc => ?_⟩
        have := List.all_eq_true.1 hb.2.1 cell hc
        simp only [decide_eq_true_eq] at this ⊢
        omega
    · split
      · next heq =>
        split
        · exact hb.2.2
        · next hv => exact (Memory.wf_cons _ _ _).2 ⟨hv, heq ▸ hb.2.1, hb.2.2⟩
      · next hlt hne =>
        exact (Memory.wf_cons _ _ _).2 ⟨hb.1, Memory.write_above m b a v (by omega) hb.2.1, ih hb.2.2⟩

/-- A read where the write was gives the value written. -/
theorem Memory.read_write_same (m : Memory) (a : Nat) (v : Byte) (h : m.wf = true) : (Memory.write m a v).read a = v := by
  induction m with
  | nil => simp only [Memory.write]; split <;> simp_all [Memory.read_cons]
  | cons hd m ih =>
    obtain ⟨b, w⟩ := hd
    have hb := (Memory.wf_cons b w m).1 h
    simp only [Memory.write]
    split
    · next hlt =>
      split
      · next hv =>
        rw [Memory.read_cons, if_neg (by omega), hv]
        refine Memory.read_below m a (List.all_eq_true.2 fun cell hc => ?_)
        have := List.all_eq_true.1 hb.2.1 cell hc
        simp only [decide_eq_true_eq] at this ⊢
        omega
      · rw [Memory.read_cons, if_pos rfl]
    · split
      · next heq =>
        split
        · next hv => rw [hv]; exact Memory.read_below m a (heq ▸ hb.2.1)
        · rw [Memory.read_cons, if_pos rfl]
      · next hlt hne => rw [Memory.read_cons, if_neg hne, ih hb.2.2]

/-- A write leaves every other address as it was. -/
theorem Memory.read_write_other (m : Memory) (a b : Nat) (v : Byte) (hab : b ≠ a) :
    (Memory.write m a v).read b = m.read b := by
  induction m with
  | nil => simp only [Memory.write]; split <;> simp [Memory.read_cons, hab]
  | cons hd m ih =>
    obtain ⟨c, w⟩ := hd
    simp only [Memory.write]
    split
    · split
      · rfl
      · rw [Memory.read_cons, if_neg hab]
    · split
      · next heq =>
        split
        · rw [Memory.read_cons, if_neg (by omega)]
        · rw [Memory.read_cons, Memory.read_cons, if_neg hab, if_neg (by omega)]
      · rw [Memory.read_cons, Memory.read_cons, ih]

/-- What a memory reads after a write: everything a write does, said once. -/
theorem Memory.read_write (m : Memory) (a b : Nat) (v : Byte) (h : m.wf = true) :
    (Memory.write m a v).read b = if b = a then v else m.read b := by
  split
  · next hab => rw [hab, Memory.read_write_same m a v h]
  · next hab => exact Memory.read_write_other m a b v hab

/-- A write inside a range keeps the memory inside it. -/
theorem Memory.within_write (lo hi : Nat) (m : Memory) (a : Nat) (v : Byte) (ha : lo ≤ a ∧ a < hi)
    (h : m.within lo hi = true) : (Memory.write m a v).within lo hi = true :=
  Memory.all_write m a v _ (by simp [ha.1, ha.2]) h

/-- Two memories in canonical form that read alike are equal data. -/
theorem Memory.ext_read (m n : Memory) (hm : m.wf = true) (hn : n.wf = true) (h : ∀ a, m.read a = n.read a) : m = n := by
  induction m generalizing n with
  | nil =>
    cases n with
    | nil => rfl
    | cons hd n =>
      obtain ⟨b, w⟩ := hd
      have := h b
      rw [Memory.read_cons, if_pos rfl] at this
      exact absurd this.symm ((Memory.wf_cons b w n).1 hn).1
  | cons hd m ih =>
    obtain ⟨a, v⟩ := hd
    have ha := (Memory.wf_cons a v m).1 hm
    cases n with
    | nil =>
      have := h a
      rw [Memory.read_cons, if_pos rfl] at this
      exact absurd this ha.1
    | cons hd' n =>
      obtain ⟨b, w⟩ := hd'
      have hb := (Memory.wf_cons b w n).1 hn
      have hab : a = b := by
        rcases Nat.lt_trichotomy a b with hlt | heq | hgt
        · have hr := h a
          rw [Memory.read_cons, if_pos rfl, Memory.read_cons, if_neg (by omega)] at hr
          rw [Memory.read_below n a] at hr
          · exact absurd hr ha.1
          · refine List.all_eq_true.2 fun cell hc => ?_
            have := List.all_eq_true.1 hb.2.1 cell hc
            simp only [decide_eq_true_eq] at this ⊢
            omega
        · exact heq
        · have hr := h b
          rw [Memory.read_cons, if_neg (by omega), Memory.read_cons, if_pos rfl] at hr
          rw [Memory.read_below m b] at hr
          · exact absurd hr.symm hb.1
          · refine List.all_eq_true.2 fun cell hc => ?_
            have := List.all_eq_true.1 ha.2.1 cell hc
            simp only [decide_eq_true_eq] at this ⊢
            omega
      subst hab
      have hv : v = w := by
        have := h a
        simpa [Memory.read_cons] using this
      have hmn : m = n := by
        refine ih n ha.2.2 hb.2.2 fun x => ?_
        by_cases hx : x = a
        · rw [hx, Memory.read_below m a ha.2.1, Memory.read_below n a hb.2.1]
        · have := h x
          simpa [Memory.read_cons, hx] using this
      rw [hv, hmn]

end Sys2Proof.Machine
end

