-- ==== Sys2Proof/Laws/Ops.lean ====
section
/-! SUPPORT. One lemma per shared operation that says once what it can do: the halt, registers, pointers and their
increments, the derived configuration, the character modes. -/
namespace Sys2Proof.Machine

variable (s : State)

/-! ### The halt -/

theorem live_of_running (f : State → State) (h : s.fault = none) : live f s = f s := by simp [live, h]

theorem live_of_halted (f : State → State) (e : Fault) (h : s.fault = some e) : live f s = s := by simp [live, h]

/-- A sub-step runs or, in a halted block, changes nothing. -/
theorem live_cases (f : State → State) : s.fault = none ∧ live f s = f s ∨ s.fault ≠ none ∧ live f s = s := by
  cases h : s.fault with
  | none => exact .inl ⟨rfl, live_of_running s f h⟩
  | some e => exact .inr ⟨by simp, live_of_halted s f e h⟩

theorem liveSeq_halted (fs : List (State → State)) (e : Fault) (h : s.fault = some e) : liveSeq fs s = s := by
  induction fs with
  | nil => rfl
  | cons f fs ih => simp [liveSeq, live_of_halted s f e h, ih]

@[simp] theorem liveSeq_nil : liveSeq [] s = s := rfl

@[simp] theorem liveSeq_cons (f : State → State) (fs : List (State → State)) :
    liveSeq (f :: fs) s = liveSeq fs (live f s) := rfl

/-- A property every sub-step keeps is kept by the sequence. -/
theorem liveSeq_induct (P : State → Prop) (fs : List (State → State))
    (hf : ∀ f ∈ fs, ∀ t, t.fault = none → P t → P (f t)) (h : P s) : P (liveSeq fs s) := by
  induction fs generalizing s with
  | nil => exact h
  | cons f fs ih =>
    refine ih (live f s) (fun g hg => hf g (by simp [hg])) ?_
    rcases live_cases s f with ⟨hr, he⟩ | ⟨-, he⟩
    · rw [he]; exact hf f (by simp) s hr h
    · rw [he]; exact h

theorem raise_of_running (e : Fault) (h : s.fault = none) : raise e s = { s with fault := some e } := by simp [raise, h]

theorem raise_of_halted (e e' : Fault) (h : s.fault = some e') : raise e s = s := by simp [raise, h]

/-- A raise marks a fault and touches nothing else. -/
theorem raise_frame (e : Fault) : (raise e s).fault ≠ none ∧ { raise e s with fault := s.fault } = s := by
  cases h : s.fault with
  | none => exact ⟨by simp [raise, h], by simp only [raise, h]; cases s; simp_all⟩
  | some e' => exact ⟨by simp [raise, h], by simp only [raise, h]; cases s; simp_all⟩

@[simp] theorem onlyIf_true (f : State → State) : onlyIf true f s = f s := rfl

@[simp] theorem onlyIf_false (f : State → State) : onlyIf false f s = s := rfl

/-! ### Registers -/

@[simp] theorem getReg_setReg_same (k : BitVec 3) (v : Byte) : getReg (setReg k v s) k = v := by simp [getReg]

theorem getReg_setReg_other (k j : BitVec 3) (v : Byte) (h : j ≠ k) : getReg (setReg k v s) j = getReg s j := by
  have : k.toNat ≠ j.toNat := fun e => h (BitVec.eq_of_toNat_eq e.symm)
  simp [getReg, Vector.getElem_set_ne _ _ this]

/-- What a register reads after a write. -/
theorem getReg_setReg (k j : BitVec 3) (v : Byte) : getReg (setReg k v s) j = if j = k then v else getReg s j := by
  split
  · next h => rw [h, getReg_setReg_same]
  · next h => exact getReg_setReg_other s k j v h

@[simp] theorem getIReg_setIReg_same (k : BitVec 3) (v : Byte) : getIReg (setIReg k v s) k = v := by simp [getIReg]

theorem getIReg_setIReg_other (k j : BitVec 3) (v : Byte) (h : j ≠ k) : getIReg (setIReg k v s) j = getIReg s j := by
  have : k.toNat ≠ j.toNat := fun e => h (BitVec.eq_of_toNat_eq e.symm)
  simp [getIReg, Vector.getElem_set_ne _ _ this]

@[simp] theorem getReg_vramWrite (a : BitVec 13) (v : Byte) (k : BitVec 3) : getReg (vramWrite a v s) k = getReg s k := rfl

@[simp] theorem vramRead_setReg (k : BitVec 3) (v : Byte) (a : BitVec 13) : vramRead (setReg k v s) a = vramRead s a := rfl

/-- Register files that read alike are equal. -/
theorem regs_ext (t : State) (h : ∀ k, getReg s k = getReg t k) : s.r = t.r := by
  apply Vector.ext
  intro i hi
  have := h (BitVec.ofNat 3 i)
  have hn : (BitVec.ofNat 3 i).toNat = i := by simp; omega
  simpa [getReg, hn] using this

/-- What a video-RAM byte reads after a store. -/
theorem vramRead_vramWrite (a b : BitVec 13) (v : Byte) (h : s.vram.wf = true) :
    vramRead (vramWrite a v s) b = if b = a then v else vramRead s b := by
  simp only [vramRead, vramWrite_vram, Memory.read_write _ _ _ _ h, BitVec.toNat_eq]

/-- A store leaves every other byte, in any memory. -/
theorem vramRead_vramWrite_other (a b : BitVec 13) (v : Byte) (h : b ≠ a) :
    vramRead (vramWrite a v s) b = vramRead s b :=
  Memory.read_write_other _ _ _ _ fun e => h (BitVec.eq_of_toNat_eq e)

/-! ### Pointer increments -/

theorem nextCol_toNat (col : BitVec 6) : (nextCol col).toNat = (col.toNat + 1) % 40 := by
  simp only [nextCol, BitVec.toNat_ofNat]; omega

theorem nextRow_toNat (row : BitVec 5) : (nextRow row).toNat = if row.toNat = 31 then 8 else row.toNat + 1 := by
  have := row.isLt
  simp only [nextRow, BitVec.toNat_ofNat]
  split <;> split <;> omega

theorem extract_low_append {m n : Nat} (x : BitVec m) (y : BitVec n) : (x ++ y).extractLsb' 0 n = y := by
  ext i hi; simp [BitVec.getLsbD_append, hi]

theorem extract_high_append {m n : Nat} (x : BitVec m) (y : BitVec n) : (x ++ y).extractLsb' n m = x := by
  ext i hi; simp [BitVec.getLsbD_append, BitVec.getLsbD_eq_getElem hi]

theorem incColByte_bumps (v : Byte) : ColumnBumped v (incColByte v) :=
  ⟨extract_high_append _ _, by rw [← nextCol_toNat]; exact congrArg _ (extract_low_append _ _)⟩

theorem incRowByte_bumps (v : Byte) : RowBumped v (incRowByte v) :=
  ⟨extract_high_append _ _, by rw [← nextRow_toNat]; exact congrArg _ (extract_low_append _ _)⟩

/-- A row increment changes its register and nothing else. -/
theorem incRow_getReg (k j : BitVec 3) : getReg (incRow k s) j = if j = k then incRowByte (getReg s k) else getReg s j :=
  getReg_setReg s k j _

/-- A column increment changes its register, and the row register before it on a carried wrap. -/
theorem incCol_getReg (k j : BitVec 3) (carry : Bool) :
    getReg (incCol k carry s) j =
      if j = k then incColByte (getReg s k)
      else if (carry && colWraps ((getReg s k).extractLsb' 0 6)) = true ∧ j = k - 1 then incRowByte (getReg s (k - 1))
      else getReg s j := by
  have hk : k ≠ k - 1 := by revert k; decide
  simp only [incCol]
  cases hc : (carry && colWraps ((getReg s k).extractLsb' 0 6)) with
  | false => simp [getReg_setReg]
  | true =>
    simp only [onlyIf_true, incRow_getReg, getReg_setReg, if_neg hk.symm, true_and]
    by_cases hj : j = k
    · rw [if_neg (hj ▸ hk), if_pos hj, if_pos hj]
    · simp only [if_neg hj]

/-- An increment touches the direct registers only. -/
theorem incCol_onlyRegs (k : BitVec 3) (carry : Bool) : OnlyRegs s (incCol k carry s) := by
  simp only [OnlyRegs, incCol, onlyIf]
  split <;> rfl

theorem incRow_onlyRegs (k : BitVec 3) : OnlyRegs s (incRow k s) := rfl

/-! ### The host's turn and the hook -/

/-- A host that asks for nothing changes nothing in its turn. -/
theorem hostTurn_of_none (h : s.outside.stopRequests = []) : hostTurn s = s := by
  have ho : { s.outside with stopRequests := [] } = s.outside := by rw [← h]
  simp only [hostTurn, h, List.headD_nil, List.tail_nil, Bool.or_false, ho]

/-- A turn changes `stop_flag` and the requests only, and never clears the flag. -/
theorem hostTurn_frame : { hostTurn s with stopFlag := s.stopFlag, outside := s.outside } = s ∧
    (s.stopFlag = true → (hostTurn s).stopFlag = true) := ⟨rfl, fun h => by simp [h]⟩

/-- Asking the hook changes `stop_flag` and the outside world only (45_system_tick R317). -/
theorem askHook_frame : { askHook s with stopFlag := s.stopFlag, outside := s.outside } = s := by
  simp only [askHook, dropHookAnswer, bumpFree]
  split
  · split <;> rfl
  · rfl

/-! ### Command classes -/

/-- Without exceptions the classes are those of the reference table (30_encoding R107). -/
theorem cmdClass_reference (c : Config) (op : BitVec 4) (h : c.cmdClassAt = []) : cmdClass c op = cmdClassRef op := by
  simp [cmdClass, h, lookupOr]

/-- A command byte dispatches by the class of its opcode (42_vdp_commands R180). -/
theorem dispatch_cases (c : Byte) :
    (∃ g, cmdClass s.config (cmdOp c) = .implemented g ∧ dispatch c s = runGroup g c s) ∨
    cmdClass s.config (cmdOp c) = .unimplemented ∧ dispatch c s = logEvent (.unimplementedCommand c) s ∨
    cmdClass s.config (cmdOp c) = .unrecognised ∧ dispatch c s = raise (.unknownOpcode c) s := by
  cases h : cmdClass s.config (cmdOp c) with
  | implemented g => exact .inl ⟨g, rfl, by simp only [dispatch, h]⟩
  | unimplemented => exact .inr (.inl ⟨rfl, by simp only [dispatch, h, unimpl]⟩)
  | unrecognised => exact .inr (.inr ⟨rfl, by simp only [dispatch, h, unknown]⟩)

/-! ### Derived configuration and character modes -/

theorem derive_reset : derive (Vector.replicate 8 0) = cfgReset := by decide

/-- `linesPerFrame` takes two values. -/
theorem derive_lines (ir : Vector Byte 8) : (derive ir).linesPerFrame = 262 ∨ (derive ir).linesPerFrame = 312 := by
  simp only [derive]; split <;> simp

theorem charModeFault_none (m : BitVec 3) : charModeFault m = none ↔ m = 0 ∨ m = 4 := by revert m; decide

/-- An accepted mode reloads the row. -/
theorem rowReload_accepted (k : Nat) (h : ModeAccepted s) : rowReload k s = loadRow k s := by
  have := (charModeFault_none s.cfg.charMode).2 h
  simp [rowReload, this]

end Sys2Proof.Machine
end

