-- ==== Sys2Proof/Laws/Frames.lean ====
section
/-! SUPPORT. The frame of each composite operation, said once: the result with the fields it may change put back is the
state it started from. A field's own equation is `congrArg` of a frame. -/
namespace Sys2Proof.Machine

variable (s : State)

/-! ### Commands -/

/-- The parts a command may change. -/
def restoreCommand (s t : State) : State :=
  { t with r := s.r, ir := s.ir, cfg := s.cfg, vram := s.vram, log := s.log, fault := s.fault }

theorem restoreCommand_trans (t u : State) (h1 : restoreCommand s t = s) (h2 : restoreCommand t u = t) :
    restoreCommand s u = s := by
  have : restoreCommand s u = restoreCommand s (restoreCommand t u) := rfl
  rw [this, h2, h1]

theorem incMp_frame (t : State) (inc carry : Bool) (h : restoreCommand s t = s) :
    restoreCommand s (incMp inc carry t) = s := by
  cases inc
  · exact h
  · have e : restoreCommand s (incMp true carry t) = restoreCommand s { incCol 7 carry t with r := t.r } := rfl
    have h2 : ({ incCol 7 carry t with r := t.r } : State) = t := incCol_onlyRegs t 7 carry
    rw [e, h2, h]

theorem incAp_frame (t : State) (inc : Bool) (h : restoreCommand s t = s) : restoreCommand s (incAp inc t) = s := by
  cases inc
  · exact h
  · have e : restoreCommand s (incAp true t) = restoreCommand s { incCol 5 false t with r := t.r } := rfl
    have h2 : ({ incCol 5 false t with r := t.r } : State) = t := incCol_onlyRegs t 5 false
    rw [e, h2, h]

theorem raise_restoreCommand (e : Fault) : restoreCommand s (raise e s) = s := by
  simp only [raise, restoreCommand]; split <;> rfl

/-- The commands of a group change what a command may change. -/
theorem runGroup_frame (g : CommandGroup) (c : Byte) : restoreCommand s (runGroup g c s) = s := by
  cases g <;> simp only [runGroup]
  case block =>
    split
    · rfl
    · split <;> split <;> exact incMp_frame s _ _ _ rfl
  case octet =>
    split
    · rfl
    · split <;> split
      · exact incAp_frame s _ _ rfl
      · exact incMp_frame s _ _ _ rfl
      · exact incAp_frame s _ _ rfl
      · exact incMp_frame s _ _ _ rfl
  case indirect => split <;> rfl
  case nextRow => rfl

/-- A command changes registers, indirect registers, `cfg`, video RAM, the log and the fault mark only (R203). -/
theorem dispatch_frame (c : Byte) : restoreCommand s (dispatch c s) = s := by
  simp only [dispatch]
  split
  · exact runGroup_frame s _ c
  · rfl
  · exact raise_restoreCommand s _

/-! ### Raster -/

/-- The parts the raster may change. -/
def restoreRaster (s t : State) : State :=
  { t with
      tickInLine := s.tickInLine, line := s.line, rowbuf := s.rowbuf, rowY := s.rowY, quad := s.quad, fb := s.fb
      hs := s.hs, vs := s.vs, fault := s.fault }

theorem restoreRaster_self : restoreRaster s s = s := rfl

/-- Being the same outside the raster is kept along a sequence of sub-steps that each keep it. -/
theorem restoreRaster_trans (t u : State) (h1 : restoreRaster s t = s) (h2 : restoreRaster t u = t) :
    restoreRaster s u = s := by
  have : restoreRaster s u = restoreRaster s (restoreRaster t u) := rfl
  rw [this, h2, h1]

theorem liveSeq_restoreRaster (fs : List (State → State)) (h : ∀ f ∈ fs, ∀ t, restoreRaster t (f t) = t) :
    restoreRaster s (liveSeq fs s) = s :=
  liveSeq_induct s (fun t => restoreRaster s t = s) fs (fun f hf t _ ht => restoreRaster_trans s t _ ht (h f hf t)) rfl

theorem writePixels_frame (x al n : Nat) (colour : Nat → BitVec 3) :
    { writePixels x al colour n s with fb := s.fb } = s := by
  induction n with
  | zero => rfl
  | succ n ih =>
    have : { writePixels x al colour (n + 1) s with fb := s.fb } = { writePixels x al colour n s with fb := s.fb } := rfl
    rw [this, ih]

theorem renderCell_frame (c sl al : Nat) : { renderCell c sl al s with fb := s.fb } = s := writePixels_frame s _ _ _ _

theorem renderCell_fault (c sl al : Nat) : (renderCell c sl al s).fault = s.fault := by
  have h : ({ renderCell c sl al s with fb := s.fb } : State).fault = s.fault := by rw [renderCell_frame]
  exact h

theorem renderCell_restore (c sl al : Nat) : restoreRaster s (renderCell c sl al s) = s := by
  have : restoreRaster s (renderCell c sl al s) = restoreRaster s { renderCell c sl al s with fb := s.fb } := rfl
  rw [this, renderCell_frame, restoreRaster_self]

theorem rowReload_restore (k : Nat) : restoreRaster s (rowReload k s) = s := by
  simp only [rowReload]
  split
  · rfl
  · simp only [raise]; split <;> rfl

/-- What the raster does at its position stays inside the raster. -/
theorem rasterAct_restore : restoreRaster s (rasterAct s) = s := by
  simp only [rasterAct]
  split
  · rfl
  · split
    · simp only [onlyIf]; split <;> rfl
    · refine liveSeq_restoreRaster s _ fun f hf t => ?_
      simp only [List.mem_cons, List.not_mem_nil, or_false] at hf
      rcases hf with rfl | rfl
      · simp only [reloadStep, onlyIf]
        split
        · refine liveSeq_restoreRaster t _ fun g hg u => ?_
          simp only [List.mem_cons, List.not_mem_nil, or_false] at hg
          rcases hg with rfl | rfl
          · exact rowReload_restore u _
          · rfl
        · rfl
      · simp only [cellStep]
        split
        · exact renderCell_restore t _ _ _
        · rfl

theorem advance_restore : restoreRaster s (advance s) = s := by simp only [advance]; split <;> rfl

/-- A raster step changes the raster only: no register, no video RAM, no latch, no tape. -/
theorem rasterStep_restore : restoreRaster s (rasterStep s) = s := by
  refine liveSeq_restoreRaster s _ fun f hf t => ?_
  simp only [List.mem_cons, List.not_mem_nil, or_false] at hf
  rcases hf with rfl | rfl | rfl
  · exact rasterAct_restore t
  · rfl
  · exact advance_restore t

/-- In an accepted character mode the raster raises no fault. -/
theorem rasterStep_running (hf : s.fault = none) (hm : ModeAccepted s) : (rasterStep s).fault = none := by
  have hkeep : ∀ t, restoreRaster s t = s → ModeAccepted t := fun t ht => by
    have h2 : (restoreRaster s t).cfg = s.cfg := by rw [ht]
    have : t.cfg = s.cfg := h2
    simpa [ModeAccepted, this] using hm
  refine (liveSeq_induct s (fun t => t.fault = none ∧ restoreRaster s t = s) _ (fun f hfm t _ ht => ?_) ⟨hf, rfl⟩).1
  simp only [List.mem_cons, List.not_mem_nil, or_false] at hfm
  have hr : restoreRaster s (f t) = s := by
    refine restoreRaster_trans s t _ ht.2 ?_
    rcases hfm with rfl | rfl | rfl
    · exact rasterAct_restore t
    · rfl
    · exact advance_restore t
  refine ⟨?_, hr⟩
  rcases hfm with rfl | rfl | rfl
  · simp only [rasterAct]
    split
    · exact ht.1
    · split
      · simp only [onlyIf]; split
        · exact ht.1
        · exact ht.1
      · refine (liveSeq_induct t (fun u => u.fault = none ∧ restoreRaster s u = s) _ (fun g hg u _ hu => ?_) ht).1
        simp only [List.mem_cons, List.not_mem_nil, or_false] at hg
        rcases hg with rfl | rfl
        · simp only [reloadStep, onlyIf]
          split
          · refine liveSeq_induct u (fun w => w.fault = none ∧ restoreRaster s w = s) _ (fun f' hf' w _ hw => ?_) hu
            simp only [List.mem_cons, List.not_mem_nil, or_false] at hf'
            rcases hf' with rfl | rfl
            · rw [rowReload_accepted w _ (hkeep w hw.2)]
              exact ⟨hw.1, restoreRaster_trans s w _ hw.2 rfl⟩
            · exact ⟨hw.1, restoreRaster_trans s w _ hw.2 rfl⟩
          · exact hu
        · simp only [cellStep]
          split
          · refine ⟨(renderCell_fault u _ _ _).trans hu.1, restoreRaster_trans s u _ hu.2 (renderCell_restore u _ _ _)⟩
          · exact hu
  · exact ht.1
  · simp only [advance]; split <;> exact ht.1

/-! ### Bus interface -/

/-- The parts a bus step may change. -/
def restoreBus (s t : State) : State :=
  { restoreCommand s t with
      addrLatch := s.addrLatch, dsLatch := s.dsLatch, xqLatch := s.xqLatch
      prevAs := s.prevAs, prevDs := s.prevDs, prevRw := s.prevRw, adOut := s.adOut, adDriven := s.adDriven }

theorem restoreBus_trans (t u : State) (h1 : restoreBus s t = s) (h2 : restoreBus t u = t) : restoreBus s u = s := by
  have : restoreBus s u = restoreBus s (restoreBus t u) := rfl
  rw [this, h2, h1]

/-- A bus step changes registers, latches, what a command changes and the drive of `AD` only. -/
theorem busStep_restore : restoreBus s (busStep s) = s := by
  refine liveSeq_induct s (fun t => restoreBus s t = s) _ (fun f hf t _ ht => restoreBus_trans s t _ ht ?_) rfl
  simp only [List.mem_cons, List.not_mem_nil, or_false] at hf
  rcases hf with rfl | rfl | rfl | rfl | rfl
  · simp only [onlyIf]; split <;> rfl
  · simp only [onlyIf, dsFall]
    split
    · split
      · split <;> rfl
      · rfl
    · rfl
  · simp only [onlyIf, rwFall]
    split
    · split <;> rfl
    · rfl
  · simp only [onlyIf, rwRise]
    split
    · split
      · have := dispatch_frame t (getReg t 0)
        have e : restoreBus t (dispatch (getReg t 0) t) = restoreBus t (restoreCommand t (dispatch (getReg t 0) t)) := rfl
        rw [e, this]; rfl
      · rfl
    · rfl
  · rfl

/-- Without an edge a bus step changes nothing (R161, R167). -/
theorem busStep_quiet (ha : s.pins.as = s.prevAs) (hd : s.pins.ds = s.prevDs) (hr : s.pins.rw = s.prevRw) :
    busStep s = s := by
  have hself : latchEdges s = s := by simp only [latchEdges, ha, hd, hr]
  have hlive : ∀ f : State → State, f s = s → live f s = s := fun f hf => by
    rcases live_cases s f with ⟨-, he⟩ | ⟨-, he⟩ <;> rw [he]
    exact hf
  simp only [busStep, liveSeq_cons, liveSeq_nil]
  rw [hlive _ (by rw [ha]; cases s.prevAs <;> rfl), hlive _ (by rw [hd]; cases s.prevDs <;> rfl),
    hlive _ (by rw [hr]; cases s.prevRw <;> rfl), hlive _ (by rw [hr]; cases s.prevRw <;> rfl), hlive _ hself]

/-! ### Tape -/

/-- The parts the codec may change. -/
def restoreTape (s t : State) : State := { t with tape := s.tape, log := s.log, fault := s.fault }

theorem restoreTape_trans (t u : State) (h1 : restoreTape s t = s) (h2 : restoreTape t u = t) : restoreTape s u = s := by
  have : restoreTape s u = restoreTape s (restoreTape t u) := rfl
  rw [this, h2, h1]

theorem runPulse_restore : restoreTape s (runPulse s) = s := by
  simp only [runPulse]
  split
  all_goals try rfl
  simp only [pulseNotimpl, raise]; split <;> rfl

theorem toggle_restore (d : Nat) : restoreTape s (toggle d s) = s := by
  simp only [toggle]
  refine restoreTape_trans s _ _ ?_ (runPulse_restore _)
  simp only [onlyIf]; split <;> rfl

/-- A codec tick changes the tape, the log and the fault mark only. -/
theorem tapeTick_restore (w : Level) (d : Byte) : restoreTape s (tapeTick w d s) = s := by
  simp only [tapeTick]
  refine restoreTape_trans s (countAndLatch w d s) _ rfl ?_
  simp only [onlyIf]
  split
  · refine liveSeq_induct _ (fun t => restoreTape (countAndLatch w d s) t = countAndLatch w d s) _
      (fun f hf t _ ht => restoreTape_trans _ t _ ht ?_) rfl
    simp only [List.mem_cons, List.not_mem_nil, or_false] at hf
    rcases hf with rfl | rfl
    · exact toggle_restore t _
    · rfl
  · rfl

/-! ### The configuration and the script are nobody's to change -/

/-- What no tick changes: the configuration, the script, the stop flag and the last result. -/
def fixedParts (s : State) : Config × List OpWord × Bool × HostResult := (s.config, s.script, s.stopFlag, s.result)

theorem fixedParts_live (f : State → State) (h : ∀ t, fixedParts (f t) = fixedParts t) :
    fixedParts (live f s) = fixedParts s := by
  rcases live_cases s f with ⟨-, he⟩ | ⟨-, he⟩ <;> rw [he]
  exact h s

theorem fixedParts_liveSeq (fs : List (State → State)) (h : ∀ f ∈ fs, ∀ t, fixedParts (f t) = fixedParts t) :
    fixedParts (liveSeq fs s) = fixedParts s :=
  liveSeq_induct s (fun t => fixedParts t = fixedParts s) fs (fun f hf t _ ht => (h f hf t).trans ht) rfl

theorem fixedParts_busStep : fixedParts (busStep s) = fixedParts s := by
  have h := busStep_restore s
  have e : fixedParts (busStep s) = fixedParts (restoreBus s (busStep s)) := rfl
  rw [e, h]

theorem fixedParts_rasterStep : fixedParts (rasterStep s) = fixedParts s := by
  have h := rasterStep_restore s
  have e : fixedParts (rasterStep s) = fixedParts (restoreRaster s (rasterStep s)) := rfl
  rw [e, h]

theorem fixedParts_tapeTick (w : Level) (d : Byte) : fixedParts (tapeTick w d s) = fixedParts s := by
  have h := tapeTick_restore s w d
  have e : fixedParts (tapeTick w d s) = fixedParts (restoreTape s (tapeTick w d s)) := rfl
  rw [e, h]

theorem fixedParts_raise (e : Fault) : fixedParts (raise e s) = fixedParts s := by
  simp only [raise]; split <;> rfl

theorem fixedParts_vdpTick : fixedParts (vdpTick s) = fixedParts s := by
  refine fixedParts_liveSeq s _ fun f hf t => ?_
  simp only [List.mem_cons, List.not_mem_nil, or_false] at hf
  rcases hf with rfl | rfl | rfl
  · exact fixedParts_busStep t
  · exact fixedParts_rasterStep t
  · rfl

theorem fixedParts_vdpTicks (n : Nat) : fixedParts (vdpTicks n s) = fixedParts s := by
  induction n generalizing s with
  | zero => rfl
  | succ n ih => rw [vdpTicks, ih, fixedParts_live s vdpTick fixedParts_vdpTick]

/-- A system tick changes neither the configuration nor the script, the stop flag or the last result. -/
theorem fixedParts_sysTickWith (p : CpuPins) : fixedParts (sysTickWith p s) = fixedParts s := by
  refine fixedParts_liveSeq s _ fun f hf t => ?_
  simp only [List.mem_cons, List.not_mem_nil, or_false] at hf
  rcases hf with rfl | rfl | rfl | rfl | rfl | rfl | rfl | rfl | rfl | rfl | rfl
  · rfl
  · simp only [serveMemory, dropMemAnswer, bumpFree]
    split
    · split <;> rfl
    · rfl
  · rfl
  · rfl
  · exact fixedParts_vdpTicks t _
  · simp only [foldVdp]; split <;> rfl
  · simp only [foldKeyboard, dropKeyAnswer, bumpFree]
    split
    · rfl
    · split <;> rfl
  · simp only [checkTapeRead]
    split
    · rfl
    · exact fixedParts_raise t _
  · exact fixedParts_tapeTick t _ _
  · rfl
  · rfl

end Sys2Proof.Machine
end

