-- ==== Sys2Proof/Laws/PerInstr.lean ====
section
/-! SUPPORT. The per-instruction family `CommandByte`: the command byte of a command of the table decodes to that
command (30_encoding R108). -/
namespace Sys2Proof.Laws.CommandByte

/-- The command byte the encoder gives an operation, if it has one, decodes to that operation. -/
def Statement (i : Instr) : Prop := ∀ c, encodeCmd? i = some c → decodeCmd c = i

/-- An operation without a command byte. -/
theorem of_none (i : Instr) (h : encodeCmd? i = none) : Statement i := fun c hc => by rw [h] at hc; cases hc

/-- An operation whose command byte is known. -/
theorem of_some (i : Instr) (c : Byte) (h : encodeCmd? i = some c) (hd : decodeCmd c = i) : Statement i := fun d hc => by
  rw [h] at hc; cases hc; exact hd

theorem bdIdle (idx : BitVec 3) : Statement (.bdIdle idx) := of_none _ rfl
theorem bdKbd : Statement .bdKbd := of_none _ rfl
theorem bdTapeRd : Statement .bdTapeRd := of_none _ rfl
theorem bdVdpDs : Statement .bdVdpDs := of_none _ rfl
theorem bdNc3 : Statement .bdNc3 := of_none _ rfl
theorem bdVdpAs : Statement .bdVdpAs := of_none _ rfl
theorem bdTapeWr : Statement .bdTapeWr := of_none _ rfl
theorem bdVdpRw : Statement .bdVdpRw := of_none _ rfl
theorem bdNc7 : Statement .bdNc7 := of_none _ rfl
theorem vbAsFall (ad : Byte) (ds : Level) : Statement (.vbAsFall ad ds) := of_none _ rfl
theorem vbDsFall (rw : Level) : Statement (.vbDsFall rw) := of_none _ rfl
theorem vbRwFall (ad : Byte) : Statement (.vbRwFall ad) := of_none _ rfl
theorem vbRwRise : Statement .vbRwRise := of_none _ rfl
theorem krfW (inc : Bool) : Statement (.krfW inc) := of_some _ _ rfl (by revert inc; decide)
theorem krfR (inc : Bool) : Statement (.krfR inc) := of_some _ _ rfl (by revert inc; decide)
theorem krgW (inc : Bool) : Statement (.krgW inc) := of_some _ _ rfl (by revert inc; decide)
theorem krgR (inc : Bool) : Statement (.krgR inc) := of_some _ _ rfl (by revert inc; decide)
theorem unimplClr (p3 p1 p0 : Bool) : Statement (.unimplClr p3 p1 p0) := of_some _ _ rfl (by revert p3 p1 p0; decide)
theorem unimplKre (p : BitVec 4) : Statement (.unimplKre p) := of_some _ _ rfl (by revert p; decide)
theorem unimplKrv (p : BitVec 4) : Statement (.unimplKrv p) := of_some _ _ rfl (by revert p; decide)
theorem octWMp (inc : Bool) : Statement (.octWMp inc) := of_some _ _ rfl (by revert inc; decide)
theorem octWAp (inc : Bool) : Statement (.octWAp inc) := of_some _ _ rfl (by revert inc; decide)
theorem octRMp (inc : Bool) : Statement (.octRMp inc) := of_some _ _ rfl (by revert inc; decide)
theorem octRAp (inc : Bool) : Statement (.octRAp inc) := of_some _ _ rfl (by revert inc; decide)
theorem unimplOct (p3 p2 p0 : Bool) : Statement (.unimplOct p3 p2 p0) := of_some _ _ rfl (by revert p3 p2 p0; decide)
theorem unimplKrc (p : BitVec 4) : Statement (.unimplKrc p) := of_some _ _ rfl (by revert p; decide)
theorem unimplKrl (p : BitVec 4) : Statement (.unimplKrl p) := of_some _ _ rfl (by revert p; decide)
theorem unimplExp (p : BitVec 4) : Statement (.unimplExp p) := of_some _ _ rfl (by revert p; decide)
theorem unimplCmp (p : BitVec 4) : Statement (.unimplCmp p) := of_some _ _ rfl (by revert p; decide)
theorem indW (r : BitVec 3) : Statement (.indW r) := of_some _ _ rfl (by revert r; decide)
theorem indR (r : BitVec 3) : Statement (.indR r) := of_some _ _ rfl (by revert r; decide)
theorem unimplNop (p : BitVec 4) : Statement (.unimplNop p) := of_some _ _ rfl (by revert p; decide)
theorem unknownA (p : BitVec 4) : Statement (.unknownA p) := of_some _ _ rfl (by revert p; decide)
theorem iny (p : BitVec 4) : Statement (.iny p) := of_some _ _ rfl (by revert p; decide)
theorem unknownC (p : BitVec 4) : Statement (.unknownC p) := of_some _ _ rfl (by revert p; decide)
theorem unimplMvb (p : BitVec 4) : Statement (.unimplMvb p) := of_some _ _ rfl (by revert p; decide)
theorem unimplMvd (p : BitVec 4) : Statement (.unimplMvd p) := of_some _ _ rfl (by revert p; decide)
theorem unimplMvt (p : BitVec 4) : Statement (.unimplMvt p) := of_some _ _ rfl (by revert p; decide)
theorem raTick : Statement .raTick := of_none _ rfl
theorem raServiceRow : Statement .raServiceRow := of_none _ rfl
theorem raRowReload (k : Nat) : Statement (.raRowReload k) := of_none _ rfl
theorem raQuadrant : Statement .raQuadrant := of_none _ rfl
theorem raCell (c sl al : Nat) : Statement (.raCell c sl al) := of_none _ rfl
theorem raAdvance : Statement .raAdvance := of_none _ rfl
theorem raSync : Statement .raSync := of_none _ rfl
theorem tpInsert (image : List Byte) : Statement (.tpInsert image) := of_none _ rfl
theorem tpEject : Statement .tpEject := of_none _ rfl
theorem tpTick (svc : BitVec 3) (d : Byte) : Statement (.tpTick svc d) := of_none _ rfl
theorem tpSync : Statement .tpSync := of_none _ rfl
theorem tpBit0 : Statement .tpBit0 := of_none _ rfl
theorem tpBit1 : Statement .tpBit1 := of_none _ rfl
theorem tpErr : Statement .tpErr := of_none _ rfl
theorem tpDrain : Statement .tpDrain := of_none _ rfl
theorem tpNotimpl : Statement .tpNotimpl := of_none _ rfl
theorem tpInert : Statement .tpInert := of_none _ rfl
theorem sysTick : Statement .sysTick := of_none _ rfl
theorem sysRun (n : Nat) : Statement (.sysRun n) := of_none _ rfl
theorem sysReset : Statement .sysReset := of_none _ rfl
theorem hostFb (nullSys : Bool) : Statement (.hostFb nullSys) := of_none _ rfl
theorem hostInsert (image : List Byte) : Statement (.hostInsert image) := of_none _ rfl
theorem hostEject : Statement .hostEject := of_none _ rfl
theorem hostReset : Statement .hostReset := of_none _ rfl
theorem out (port v : Byte) (t : BusTiming) : Statement (.out port v t) := of_none _ rfl
theorem inp (port : Byte) (t : BusTiming) : Statement (.inp port t) := of_none _ rfl
theorem idle (k : Nat) : Statement (.idle k) := of_none _ rfl
theorem wreg (n : BitVec 3) (v : Byte) (t1 t2 : BusTiming) : Statement (.wreg n v t1 t2) := of_none _ rfl
theorem wregx (n : BitVec 3) (v : Byte) (t1 t2 : BusTiming) : Statement (.wregx n v t1 t2) := of_none _ rfl
theorem rreg (n : BitVec 3) (t1 t2 : BusTiming) : Statement (.rreg n t1 t2) := of_none _ rfl
theorem cmd (c : Byte) (t1 t2 : BusTiming) : Statement (.cmd c t1 t2) := of_none _ rfl
theorem kout (b : Byte) (t : BusTiming) : Statement (.kout b t) := of_none _ rfl

end Sys2Proof.Laws.CommandByte
end

