-- ==== Sys2Proof/Laws/Raster.lean ====
section
/-! SUPPORT. What the passes of the raster and the search of the codec give, said once and by position: framebuffer
writes, the pixels of a cell, the decoded row, the quadrant pass, the synchro search. -/
namespace Sys2Proof.Machine

variable (s : State)

/-! ### Framebuffer -/

/-- What a framebuffer byte reads after a write. -/
theorem fbRead_fbWrite (x y i : Nat) (colour : BitVec 3) (h : s.fb.wf = true) :
    fbRead (fbWrite x y colour s) i = if i = y * fbWidth + x then colour.setWidth 8 else fbRead s i :=
  Memory.read_write s.fb _ i _ h

theorem fbWrite_wf (x y : Nat) (colour : BitVec 3) (h : s.fb.wf = true) : (fbWrite x y colour s).fb.wf = true :=
  Memory.wf_write s.fb _ _ h

theorem writePixels_wf (x al n : Nat) (colour : Nat → BitVec 3) (h : s.fb.wf = true) :
    (writePixels x al colour n s).fb.wf = true := by
  induction n with
  | zero => exact h
  | succ n ih => exact fbWrite_wf _ _ _ _ ih

/-- What a framebuffer byte reads after `n` pixels are written. -/
theorem writePixels_read (x al n i : Nat) (colour : Nat → BitVec 3) (h : s.fb.wf = true) :
    fbRead (writePixels x al colour n s) i =
      if al * fbWidth + x ≤ i ∧ i < al * fbWidth + x + n then (colour (i - (al * fbWidth + x))).setWidth 8
      else fbRead s i := by
  induction n with
  | zero => rw [if_neg (by omega)]; rfl
  | succ n ih =>
    rw [writePixels, fbRead_fbWrite _ _ _ _ _ (writePixels_wf s x al n colour h), ih]
    by_cases hi : i = al * fbWidth + (x + n)
    · rw [if_pos hi, if_pos (by omega)]
      congr 2; omega
    · rw [if_neg hi]
      by_cases hr : al * fbWidth + x ≤ i ∧ i < al * fbWidth + x + n
      · rw [if_pos hr, if_pos (by omega)]
      · rw [if_neg hr, if_neg (by omega)]

/-- A cell render writes its eight bytes and no other. -/
theorem renderCell_read (c sl al i : Nat) (h : s.fb.wf = true) :
    fbRead (renderCell c sl al s) i =
      if al * fbWidth + c * 8 ≤ i ∧ i < al * fbWidth + c * 8 + 8
      then (pixelColour s c sl (i - (al * fbWidth + c * 8))).setWidth 8 else fbRead s i :=
  writePixels_read s (c * 8) al 8 i _ h

/-! ### Rows -/

/-- A slot of forty values made into a row. -/
theorem row40_getElem? {α : Type} (l : List α) (h : l.length = 40) (c : Nat) : (row40 l h)[c]? = l[c]? := by
  simp [row40]

theorem cellAt_row40 (t : State) (l : List RowCell) (h : l.length = 40) (ht : t.rowbuf = row40 l h) (c : Nat) :
    cellAt t c = l[c]?.getD blankCell := by
  rw [cellAt, ht, row40_getElem?]

theorem quadAt_row40 (t : State) (l : List Quadrant) (h : l.length = 40) (ht : t.quad = row40 l h) (c : Nat) :
    quadAt t c = l[c]?.getD .none := by
  rw [quadAt, ht, row40_getElem?]

/-- The latch after the first triplets of a row. -/
def latchBefore (l : CellLayout) (latch : DelimLatch) : List (Byte × Byte × Byte) → Nat → DelimLatch
  | (a, b, c) :: rest, n + 1 => latchBefore l (latchAfter l a b c latch) rest n
  | _, _ => latch

/-- Cell `c` of a decoded row is its triplet under the latch the cells to its left leave. -/
theorem decodeRow_getElem? (l : CellLayout) (latch : DelimLatch) (ts : List (Byte × Byte × Byte)) (c : Nat) :
    (decodeRow l latch ts)[c]? =
      ts[c]?.map fun t => decodeCell l t.1 t.2.1 t.2.2 (latchBefore l latch ts c) := by
  induction ts generalizing latch c with
  | nil => simp [decodeRow]
  | cons t ts ih =>
    obtain ⟨a, b, d⟩ := t
    cases c with
    | zero => simp [decodeRow, latchBefore]
    | succ c => simp [decodeRow, latchBefore, ih]

/-- The latch at a cell is the latch the cell to its left leaves. -/
theorem latchBefore_succ (l : CellLayout) (latch : DelimLatch) (ts : List (Byte × Byte × Byte)) (c : Nat)
    (a b d : Byte) (h : ts[c]? = some (a, b, d)) :
    latchBefore l latch ts (c + 1) = latchAfter l a b d (latchBefore l latch ts c) := by
  induction ts generalizing latch c with
  | nil => simp at h
  | cons t ts ih =>
    obtain ⟨a', b', d'⟩ := t
    cases c with
    | zero =>
      simp only [List.getElem?_cons_zero, Option.some.injEq, Prod.mk.injEq] at h
      obtain ⟨rfl, rfl, rfl⟩ := h
      cases ts <;> rfl
    | succ c =>
      simp only [List.getElem?_cons_succ] at h
      exact ih _ _ h

/-- Cell `c` of a reloaded row. -/
theorem reloadedRow_cell (y : BitVec 5) (c : Nat) (hc : c < 40) :
    (reloadedRow s y)[c]? =
      some (decodeCell s.config.layout (tripletAt s y c).1 (tripletAt s y c).2.1 (tripletAt s y c).2.2
        (latchBefore s.config.layout clearLatch (rowTriplets s y) c)) := by
  rw [reloadedRow, row40_getElem?, decodeRow_getElem?]
  simp [rowTriplets, hc]

/-- The row a text row shows, as a number (43_vdp_raster R229). -/
theorem displayRow_toNat (origin : BitVec 5) (k : Nat) (h1 : 1 ≤ k) (h2 : k ≤ 24) :
    (displayRow origin k).toNat =
      if origin.toNat + (k - 1) > 31 then origin.toNat + (k - 1) - 24 else origin.toNat + (k - 1) := by
  have := origin.isLt
  simp only [displayRow, BitVec.toNat_ofNat]
  split <;> omega

/-- Quadrant `c` of a pass is the table's value at its cell, the new quadrant to the left and the old one above. -/
theorem quadRow_getElem? (left : Quadrant) (cs : List (RowCell × Quadrant)) (c : Nat) (cell : RowCell) (above : Quadrant)
    (h : cs[c]? = some (cell, above)) :
    (quadRow left cs)[c]? =
      some (quadNext cell.dw cell.dh (if c = 0 then left else (quadRow left cs)[c - 1]?.getD .none) above) := by
  induction cs generalizing left c with
  | nil => simp at h
  | cons t cs ih =>
    obtain ⟨cell', above'⟩ := t
    cases c with
    | zero =>
      simp only [List.getElem?_cons_zero, Option.some.injEq, Prod.mk.injEq] at h
      obtain ⟨rfl, rfl⟩ := h
      simp [quadRow]
    | succ c =>
      simp only [List.getElem?_cons_succ] at h
      simp only [quadRow, List.getElem?_cons_succ, ih _ _ h]
      cases c <;> simp

/-! ### Synchro search -/

/-- The search either finds the first pair of long pulses and leaves what follows it, or finds none and leaves the
youngest sample (44_tape_codec R286). -/
theorem syncSearch_cases (c : Config) (ring : List Nat) :
    (∃ pre a b rest, ring = pre ++ a :: b :: rest ∧ isLong c a = true ∧ isLong c b = true ∧
      (∀ i < pre.length, ¬ ∃ x y, ring[i]? = some x ∧ ring[i + 1]? = some y ∧ isLong c x = true ∧ isLong c y = true) ∧
      syncSearch c ring = (rest, true)) ∨
    ((∀ i, ¬ ∃ x y, ring[i]? = some x ∧ ring[i + 1]? = some y ∧ isLong c x = true ∧ isLong c y = true) ∧
      syncSearch c ring = (ring.drop (ring.length - 1), false)) := by
  induction ring with
  | nil => exact .inr ⟨by simp, rfl⟩
  | cons a ring ih =>
    cases ring with
    | nil => exact .inr ⟨by simp, rfl⟩
    | cons b rest =>
      by_cases hab : (isLong c a && isLong c b) = true
      · refine .inl ⟨[], a, b, rest, rfl, ?_, ?_, by simp, by simp [syncSearch, hab]⟩ <;> simp_all
      · have hstep : syncSearch c (a :: b :: rest) = syncSearch c (b :: rest) := by simp [syncSearch, hab]
        have hfirst : ¬ ∃ x y, (a :: b :: rest)[0]? = some x ∧ (a :: b :: rest)[0 + 1]? = some y ∧
            isLong c x = true ∧ isLong c y = true := by
          rintro ⟨x, y, hx, hy, h1, h2⟩
          simp at hx hy
          subst hx; subst hy
          exact hab (by simp [h1, h2])
        rcases ih with ⟨pre, x, y, tl, he, hx, hy, hn, hs⟩ | ⟨hn, hs⟩
        · refine .inl ⟨a :: pre, x, y, tl, by rw [he]; rfl, hx, hy, fun i hi => ?_, by rw [hstep, hs]⟩
          cases i with
          | zero => exact hfirst
          | succ i => simpa using hn i (by simpa using hi)
        · refine .inr ⟨fun i => ?_, by rw [hstep, hs]; simp⟩
          cases i with
          | zero => exact hfirst
          | succ i => simpa using hn i

end Sys2Proof.Machine
end

