-- ==== Sys2Proof/Tests/Slice0.lean ====
section
/-! SUPPORT. Own tests: ill-formed terms the checks refuse, a word of every constructor written out from 30_encoding,
single operations on small states against the vectors of 95_test_vectors (named in each comment), and for each statement
with hypotheses a state that meets them. -/
namespace Sys2Proof.Machine.Tests

/-! ### Well-formedness -/

theorem test_wf_refuses_text_row : Instr.wf (.raRowReload 0) = false ∧ Instr.wf (.raRowReload 25) = false := by decide

theorem test_wf_refuses_cell :
    Instr.wf (.raCell 40 0 10) = false ∧ Instr.wf (.raCell 0 10 10) = false ∧ Instr.wf (.raCell 0 0 9) = false ∧
    Instr.wf (.raCell 0 0 250) = false := by decide

theorem test_wf_refuses_timing :
    Instr.wf (.out 0x8F 0 ⟨0, 1⟩) = false ∧ Instr.wf (.inp 0xCF ⟨1, 0⟩) = false ∧
    Instr.wf (.wreg 0 0 ⟨0, 1⟩ ⟨1, 1⟩) = false ∧ Instr.wf (.wregx 0 0 ⟨1, 1⟩ ⟨1, 0⟩) = false ∧
    Instr.wf (.rreg 0 ⟨1, 0⟩ ⟨1, 1⟩) = false ∧ Instr.wf (.cmd 0 ⟨1, 1⟩ ⟨0, 1⟩) = false ∧
    Instr.wf (.kout 0 ⟨0, 0⟩) = false := by decide

/-! ### Words of every constructor -/

-- F-BD is (ce, i2, i1, i0): R103, R147 to R152
theorem test_decode_bd :
    decode ⟨.bd, [0b0101]⟩ = .ok (.bdIdle 5) ∧ decode ⟨.bd, [0b1000]⟩ = .ok .bdKbd ∧
    decode ⟨.bd, [0b1001]⟩ = .ok .bdTapeRd ∧ decode ⟨.bd, [0b1010]⟩ = .ok .bdVdpDs ∧
    decode ⟨.bd, [0b1011]⟩ = .ok .bdNc3 ∧ decode ⟨.bd, [0b1100]⟩ = .ok .bdVdpAs ∧
    decode ⟨.bd, [0b1101]⟩ = .ok .bdTapeWr ∧ decode ⟨.bd, [0b1110]⟩ = .ok .bdVdpRw ∧
    decode ⟨.bd, [0b1111]⟩ = .ok .bdNc7 := by decide

-- F-EDGE is (previous, present): R127
theorem test_decode_edges :
    decode ⟨.edgeAs, [0b10, 0x29, 1]⟩ = .ok (.vbAsFall 0x29 true) ∧
    decode ⟨.edgeDs, [0b10, 1]⟩ = .ok (.vbDsFall true) ∧
    decode ⟨.edgeRw, [0b10, 0x41]⟩ = .ok (.vbRwFall 0x41) ∧ decode ⟨.edgeRw, [0b01, 0]⟩ = .ok .vbRwRise ∧
    decode ⟨.edgeAs, [0b01, 0, 0]⟩ = .error .noOperation ∧ decode ⟨.edgeDs, [0b01, 0]⟩ = .error .noOperation ∧
    decode ⟨.edgeRw, [0b11, 0]⟩ = .error .noOperation ∧ decode ⟨.edgeAs, [0b00, 0, 0]⟩ = .error .noOperation := by
  decide

-- F-CMD patterns of R108
theorem test_decode_transfers :
    decode ⟨.cmd, [0b00000001]⟩ = .ok (.krfW true) ∧ decode ⟨.cmd, [0b00001000]⟩ = .ok (.krfR false) ∧
    decode ⟨.cmd, [0b00000011]⟩ = .ok (.krgW true) ∧ decode ⟨.cmd, [0b00001010]⟩ = .ok (.krgR false) ∧
    decode ⟨.cmd, [0b00110001]⟩ = .ok (.octWMp true) ∧ decode ⟨.cmd, [0b00110100]⟩ = .ok (.octWAp false) ∧
    decode ⟨.cmd, [0b00111001]⟩ = .ok (.octRMp true) ∧ decode ⟨.cmd, [0b00111100]⟩ = .ok (.octRAp false) := by decide

theorem test_decode_indirect_iny_unknown :
    decode ⟨.cmd, [0b10000111]⟩ = .ok (.indW 7) ∧ decode ⟨.cmd, [0b10001001]⟩ = .ok (.indR 1) ∧
    decode ⟨.cmd, [0b10110101]⟩ = .ok (.iny 5) ∧ decode ⟨.cmd, [0b10101111]⟩ = .ok (.unknownA 15) ∧
    decode ⟨.cmd, [0b11000000]⟩ = .ok (.unknownC 0) := by decide

theorem test_decode_unimplemented :
    decode ⟨.cmd, [0b00001111]⟩ = .ok (.unimplClr true true true) ∧
    decode ⟨.cmd, [0b00111110]⟩ = .ok (.unimplOct true true false) ∧
    decode ⟨.cmd, [0b00010001]⟩ = .ok (.unimplKre 1) ∧ decode ⟨.cmd, [0b00100010]⟩ = .ok (.unimplKrv 2) ∧
    decode ⟨.cmd, [0b01000011]⟩ = .ok (.unimplKrc 3) ∧ decode ⟨.cmd, [0b01010100]⟩ = .ok (.unimplKrl 4) ∧
    decode ⟨.cmd, [0b01100101]⟩ = .ok (.unimplExp 5) ∧ decode ⟨.cmd, [0b01110110]⟩ = .ok (.unimplCmp 6) ∧
    decode ⟨.cmd, [0b10010001]⟩ = .ok (.unimplNop 1) ∧ decode ⟨.cmd, [0b11011000]⟩ = .ok (.unimplMvb 8) ∧
    decode ⟨.cmd, [0b11101001]⟩ = .ok (.unimplMvd 9) ∧ decode ⟨.cmd, [0b11111010]⟩ = .ok (.unimplMvt 10) := by decide

-- operations without bits, by name (R128; operand lists: log entry 7)
theorem test_decode_named_raster_tape :
    decode ⟨.named .raTick, []⟩ = .ok .raTick ∧ decode ⟨.named .raServiceRow, []⟩ = .ok .raServiceRow ∧
    decode ⟨.named .raRowReload, [24]⟩ = .ok (.raRowReload 24) ∧ decode ⟨.named .raQuadrant, []⟩ = .ok .raQuadrant ∧
    decode ⟨.named .raCell, [39, 9, 249]⟩ = .ok (.raCell 39 9 249) ∧ decode ⟨.named .raAdvance, []⟩ = .ok .raAdvance ∧
    decode ⟨.named .raSync, []⟩ = .ok .raSync ∧ decode ⟨.named .tpInsert, [0xD3, 1]⟩ = .ok (.tpInsert [0xD3, 1]) ∧
    decode ⟨.named .tpEject, []⟩ = .ok .tpEject ∧ decode ⟨.named .tpTick, [3, 0xFE]⟩ = .ok (.tpTick 3 0xFE) ∧
    decode ⟨.named .tpSync, []⟩ = .ok .tpSync ∧ decode ⟨.named .tpBit0, []⟩ = .ok .tpBit0 ∧
    decode ⟨.named .tpBit1, []⟩ = .ok .tpBit1 ∧ decode ⟨.named .tpErr, []⟩ = .ok .tpErr ∧
    decode ⟨.named .tpDrain, []⟩ = .ok .tpDrain ∧ decode ⟨.named .tpNotimpl, []⟩ = .ok .tpNotimpl ∧
    decode ⟨.named .tpInert, []⟩ = .ok .tpInert := by decide

theorem test_decode_named_system_script :
    decode ⟨.named .sysTick, []⟩ = .ok .sysTick ∧ decode ⟨.named .sysRun, [100]⟩ = .ok (.sysRun 100) ∧
    decode ⟨.named .sysReset, []⟩ = .ok .sysReset ∧ decode ⟨.named .hostFb, [1]⟩ = .ok (.hostFb true) ∧
    decode ⟨.named .hostInsert, []⟩ = .ok (.hostInsert []) ∧ decode ⟨.named .hostEject, []⟩ = .ok .hostEject ∧
    decode ⟨.named .hostReset, []⟩ = .ok .hostReset ∧
    decode ⟨.named .out, [0x8F, 0x28, 1, 2]⟩ = .ok (.out 0x8F 0x28 ⟨1, 2⟩) ∧
    decode ⟨.named .inp, [0xCF, 2, 1]⟩ = .ok (.inp 0xCF ⟨2, 1⟩) ∧ decode ⟨.named .idle, [0]⟩ = .ok (.idle 0) ∧
    decode ⟨.named .wreg, [6, 8, 1, 1, 1, 1]⟩ = .ok (.wreg 6 8 ⟨1, 1⟩ ⟨1, 1⟩) ∧
    decode ⟨.named .wregx, [1, 8, 1, 2, 3, 4]⟩ = .ok (.wregx 1 8 ⟨1, 2⟩ ⟨3, 4⟩) ∧
    decode ⟨.named .rreg, [7, 1, 1, 1, 1]⟩ = .ok (.rreg 7 ⟨1, 1⟩ ⟨1, 1⟩) ∧
    decode ⟨.named .cmd, [0xB0, 1, 1, 1, 1]⟩ = .ok (.cmd 0xB0 ⟨1, 1⟩ ⟨1, 1⟩) ∧
    decode ⟨.named .kout, [1, 1, 1]⟩ = .ok (.kout 1 ⟨1, 1⟩) := by decide

theorem test_decode_rejects :
    decode ⟨.cmd, [256]⟩ = .error .operandRange ∧ decode ⟨.bd, [16]⟩ = .error .operandRange ∧
    decode ⟨.cmd, []⟩ = .error .wrongShape ∧ decode ⟨.named .raTick, [0]⟩ = .error .wrongShape ∧
    decode ⟨.named .raRowReload, [0]⟩ = .error .operandRange ∧ decode ⟨.named .out, [256, 0, 1, 1]⟩ = .error .operandRange ∧
    decode ⟨.named .inp, [0, 0, 1]⟩ = .error .operandRange ∧ decode ⟨.edgeRw, [0b01, 7]⟩ = .error .operandRange := by decide

-- the numbering of the table: a byte is a command, four bits a selector, two bits an edge (log entry 7)
theorem test_table_words :
    decodeTableWord 8 0xB0 = some (.iny 0) ∧ decodeTableWord 4 0xC = some .bdVdpAs ∧
    decodeTableWord 2 0b01 = some .vbRwRise := by decide

/-! ### Single operations -/

/-- The state after an operation, or the state itself if it has no next state. -/
def after (i : Instr) (s : State) : State :=
  match exec i s with
  | .next t => t
  | .fault _ => s
  | .refused _ => s

/-- The reset state with its eight direct registers. -/
def withRegs (r0 r1 r2 r3 r4 r5 r6 r7 : Byte) : State := { State.reset with r := #v[r0, r1, r2, r3, r4, r5, r6, r7] }

/-- The reset state with a codec state and a ring. -/
def withTape (st : TapeState) (ring : List Nat) (bits : Nat) (byte : Byte) : State :=
  { State.reset with tape := { tapeReset with state := st, ring := ring, bitCount := bits, curByte := byte } }

-- V1 to V13
theorem test_bus_decode_vectors :
    let y (a : BitVec 16) (iorq rd wr mreq : Bool) : Byte :=
      (busDecode configRef { idlePins with a := a, iorq := iorq, rd := rd, wr := wr, mreq := mreq }).y
    y 0x008F true false true false = 0xEF ∧ y 0x00CF true false true false = 0xBF ∧
    y 0x00CF true true false false = 0xFB ∧ y 0x008F true true false false = 0xFE ∧
    y 0x00AF true true false false = 0xFD ∧ y 0x00AF true false true false = 0xDF ∧
    y 0x00EF true false true false = 0x7F ∧ y 0x00EF true true false false = 0xF7 ∧
    y 0x004F true false true false = 0xFF ∧ y 0x80CF false true false true = 0xFF ∧
    y 0x00CF true false false false = 0xFF ∧ y 0x00CF true true true false = 0xBF ∧
    y 0xFF8F true false true false = 0xEF := by decide

-- R148 to R152
theorem test_bd_operations :
    (after .bdKbd State.reset).bus.kbd = false ∧ (after .bdTapeRd State.reset).bus.tapeRd = false ∧
    (after .bdVdpDs State.reset).bus.ds = false ∧ (after .bdVdpAs State.reset).bus.as = false ∧
    (after .bdTapeWr State.reset).bus.tapeWr = false ∧ (after .bdVdpRw State.reset).bus.rw = false ∧
    (after .bdNc3 State.reset).bus.y = 0xF7 ∧ (after .bdNc7 State.reset).bus.y = 0x7F ∧
    (after (.bdIdle 4) State.reset).bus.as = true := by decide

-- V14, V17 to V22
theorem test_edges :
    (after (.vbAsFall 0x29 true) State.reset).addrLatch = 0x29 ∧ (after (.vbAsFall 0x29 true) State.reset).xqLatch = true ∧
    (after (.vbDsFall true) { withRegs 0x81 0 0 0x5A 0 0 0 0 with addrLatch := 0x20 }).log = [.r0PlaceholderRead] ∧
    (after (.vbDsFall true) { withRegs 0 0 0 0x5A 0 0 0 0 with addrLatch := 0x33 }).adDriven = false ∧
    (after (.vbDsFall true) { withRegs 0 0 0 0x5A 0 0 0 0 with addrLatch := 0x03 }).adOut = 0x5A ∧
    getReg (after (.vbRwFall 0x41) { withRegs 0 0x11 0 0 0 0 0 0 with addrLatch := 0x01 }) 1 = 0x11 ∧
    getReg (after (.vbRwFall 0x41) { withRegs 0 0x11 0 0 0 0 0 0 with addrLatch := 0x31 }) 1 = 0x41 := by decide

-- V23, V24
theorem test_rw_rise :
    getReg (after .vbRwRise { withRegs 0xB0 0 0 0 0 0 0x3F 0 with xqLatch := true }) 6 = 0x28 ∧
    getReg (after .vbRwRise (withRegs 0xB0 0 0 0 0 0 0x3F 0)) 6 = 0x3F := by decide

-- V28, V29: the planes wrap modulo 4
theorem test_krf_w :
    (after (.krfW true) (withRegs 0 0x41 0 0x70 0 0 0x08 0x27)).vram = [(0x0227, 0x41), (0x1227, 0x70)] ∧
    getReg (after (.krfW true) (withRegs 0 0x41 0 0x70 0 0 0x08 0x27)) 7 = 0x00 ∧
    (after (.krfW false) (withRegs 0 0x11 0x22 0x33 0 0 0 0xC0)).vram = [(0x0000, 0x22), (0x0800, 0x33), (0x1800, 0x11)] := by
  decide

-- V30
theorem test_krf_r :
    let s := { withRegs 0 0xFF 0xFF 0xFF 0 0 0x08 0x00 with vram := [(0x0200, 0x41), (0x1200, 0x70)] }
    (after (.krfR true) s).r = #v[0x00, 0x41, 0x00, 0x70, 0x00, 0x00, 0x08, 0x01] := by decide

-- V32, V34
theorem test_krg :
    (after (.krgW true) (withRegs 0 0x48 0x07 0xEE 0 0 0x09 0x27)).vram = [(0x0267, 0x48), (0x0A67, 0x07)] ∧
    (after (.krgR false) { withRegs 0 0 0 0xEE 0 0 0x09 0x27 with vram := [(0x0267, 0x48), (0x0A67, 0x07)] }).r =
      #v[0x00, 0x48, 0x07, 0xEE, 0x00, 0x00, 0x09, 0x27] := by decide

-- V40 to V43: 31 + 1 - 24 = 8; upper bits kept; columns 63 and 40 count as a wrap
theorem test_oct_w_mp :
    (after (.octWMp true) (withRegs 0 0xAA 0 0 0 0 0x1F 0x27)).vram = [(0x07E7, 0xAA)] ∧
    (after (.octWMp true) (withRegs 0 0xAA 0 0 0 0 0x1F 0x27)).r = #v[0x00, 0xAA, 0, 0, 0, 0, 0x08, 0x00] ∧
    (after (.octWMp true) (withRegs 0 1 0 0 0 0 0x3F 0xE7)).r = #v[0x00, 1, 0, 0, 0, 0, 0x28, 0xC0] ∧
    (after (.octWMp true) (withRegs 0 1 0 0 0 0 0x05 0x3F)).r = #v[0x00, 1, 0, 0, 0, 0, 0x06, 0x18] ∧
    (after (.octWMp true) (withRegs 0 1 0 0 0 0 0x05 0x28)).r = #v[0x00, 1, 0, 0, 0, 0, 0x06, 0x01] := by decide

-- V44, V47, V49: no carry on AP
theorem test_oct_others :
    (after (.octRMp true) { withRegs 0 0 0 0 0 0 0x08 0 with vram := [(0x0200, 0x41)] }).r =
      #v[0x00, 0x41, 0, 0, 0, 0, 0x08, 0x01] ∧
    (after (.octWAp true) (withRegs 0 0x55 0 0 0x1F 0x27 0 0)).r = #v[0x00, 0x55, 0, 0, 0x1F, 0x00, 0, 0] ∧
    (after (.octRAp true) { withRegs 0 0 0 0 0x0A 0x80 0 0 with vram := [(0x0A80, 0x55)] }).r =
      #v[0x00, 0x55, 0, 0, 0x0A, 0x81, 0, 0] := by decide

-- V50 to V52
theorem test_iny :
    getReg (after (.iny 0) (withRegs 0 0 0 0 0 0 0x1F 0)) 6 = 0x08 ∧
    getReg (after (.iny 15) (withRegs 0 0 0 0 0 0 0x07 0)) 6 = 0x08 ∧
    getReg (after (.iny 5) (withRegs 0 0 0 0 0 0 0xFF 0x12)) 6 = 0xE8 := by decide

-- V53, V55, V56, V59, V60
theorem test_ind :
    (after (.indW 1) (withRegs 0 0x01 0 0 0 0 0 0)).cfg.linesPerFrame = 262 ∧
    (after (.indW 7) (withRegs 0 0x28 0 0 0 0 0 0)).cfg.originRow = 8 ∧
    (after (.indW 7) (withRegs 0 0x28 0 0 0 0 0 0)).cfg.blockOrigin = 1 ∧
    (after (.indW 3) (withRegs 0 0x80 0 0 0 0 0 0)).cfg.charMode = 4 ∧
    (after (.indW 5) (withRegs 0 0x99 0 0 0 0 0 0)).cfg = cfgReset ∧
    getReg (after (.indR 5) { State.reset with ir := #v[0, 0, 0, 0, 0, 0x99, 0, 0] }) 1 = 0x99 := by decide

-- V63, V64
theorem test_unimplemented_and_unknown :
    (after (.unimplNop 1) State.reset).log = [.unimplementedCommand 0x91] ∧
    (after (.unimplClr true true true) State.reset).log = [.unimplementedCommand 0x0F] ∧
    (after (.unimplOct false false true) State.reset).log = [.unimplementedCommand 0x33] ∧
    (after (.unknownA 0) State.reset).fault = some (.unknownOpcode 0xA0) ∧
    (after (.unknownC 15) State.reset).fault = some (.unknownOpcode 0xCF) := by decide

-- V67, V68, V70, V71, V72
theorem test_sync_and_advance :
    (after .raSync { State.reset with tickInLine := 55 }).hs = false ∧
    (after .raSync { State.reset with tickInLine := 56 }).hs = true ∧
    (after .raSync { State.reset with line := 1 }).vs = false ∧ (after .raSync { State.reset with line := 2 }).vs = true ∧
    (after .raAdvance { State.reset with line := 311, tickInLine := 767 }).line = 0 ∧
    (after .raAdvance { State.reset with line := 310, tickInLine := 767 }).line = 311 ∧
    (after .raAdvance { State.reset with line := 261, tickInLine := 767, cfg := { cfgReset with linesPerFrame := 262 } }).line
      = 0 := by decide

-- V79
theorem test_display_row :
    displayRow 8 1 = 8 ∧ displayRow 8 24 = 31 ∧ displayRow 20 12 = 31 ∧ displayRow 20 13 = 8 ∧ displayRow 20 24 = 19 ∧
    displayRow 31 2 = 8 := by decide

-- V82: delimiter latching along a row
theorem test_delimiter_latch :
    (decodeRow cellLayoutRef clearLatch [(0x04, 0x80, 0), (0x70, 0, 0), (0x02, 0x80, 0), (0x10, 0, 0)]).map
      (fun cell => (cell.bg, cell.fg)) = [(4, 0), (4, 7), (2, 0), (2, 1)] := by decide

-- another layout than the reference (D20): the foreground in three scattered bits, one of each byte
theorem test_cell_layout :
    let l := { cellLayoutRef with fg := { hi := 23, mid := 8, lo := 0 }, dw := 1 }
    ((decodeRow l clearLatch [(0x80, 0x00, 0x03)]).map fun cell => (cell.fg, cell.dw, cell.kind)) =
      [(5, true, .alpha)] := by decide

-- V80: the faults of a reload
theorem test_row_reload_modes :
    (after (.raRowReload 1) { State.reset with cfg := { cfgReset with charMode := 1 } }).fault =
      some (.notImplementedCharMode 1) ∧
    (after (.raRowReload 24) { State.reset with cfg := { cfgReset with charMode := 7 } }).fault =
      some (.unknownCharMode 7) := by decide

-- V83: double size over two rows, and the malformed case
theorem test_quadrants :
    let big : RowCell := { blankCell with dw := true, dh := true }
    quadRow .none [(big, .none), (big, .none)] = [.dsTL, .dsTR] ∧
    quadRow .none [(big, .dsTL), (big, .dsTR)] = [.dsBL, .dsBR] ∧
    quadRow .none [(blankCell, .dsTL), (big, .dsTR)] = [.none, .none] ∧
    quadRow .none [(big, .dsTL), (blankCell, .dsTR)] = [.dsBL, .none] := by decide

/-- A state whose cell 0 is the letter of R246, its glyph slice fixed to 0x3C. -/
def glyphState (q : Quadrant) (mat : Byte) : State :=
  { State.reset with
      config := { configRef with glyphAt := [((.alpha, 0x41, 3), 0x3C), ((.alpha, 0x41, 1), 0x3C)] }
      rowbuf := State.reset.rowbuf.set 0 { blankCell with c := 0x41, fg := 7 }, quad := State.reset.quad.set 0 q
      ir := State.reset.ir.set 2 mat, rowY := 8, r := #v[0, 0, 0, 0, 0, 0, 0x08, 0x00] }

-- V84, V86, V88, V89
theorem test_cell_render :
    (after (.raCell 0 3 13) (glyphState .none 0)).fb = [(4162, 7), (4163, 7), (4164, 7), (4165, 7)] ∧
    (after (.raCell 0 3 13) (glyphState .none 0x40)).fb = [(4160, 7), (4161, 7), (4166, 7), (4167, 7)] ∧
    (after (.raCell 0 3 13) (glyphState .dwL 0)).fb = [(4164, 7), (4165, 7), (4166, 7), (4167, 7)] ∧
    (after (.raCell 0 3 13) (glyphState .dsTR 0)).fb = [(4160, 7), (4161, 7), (4162, 7), (4163, 7)] := by decide

-- R232, V76: the tick of line 10 clears the quadrants; V66: the first tick of a frame
theorem test_raster_tick :
    quadAt (after .raTick { State.reset with line := 10, quad := Vector.replicate 40 .dhT }) 39 = .none ∧
    quadAt (after .raServiceRow { State.reset with quad := Vector.replicate 40 .dhT }) 0 = .none ∧
    (after .raTick State.reset).vs = false ∧ (after .raTick State.reset).tickInLine = 1 := by decide

/-- The image of V96. -/
def imageV96 : List Byte :=
  List.replicate 10 0xD3 ++ [0x4D, 0x48, 0x45, 0x4C, 0x4C, 0x4F, 0x20, 0x01, 0x31, 0x30, 0x00, 0x00, 0x00, 0x00] ++
    [0x34, 0x12, 0xFB, 0x49, 0x03, 0x00, 0xBC, 0x0A] ++ List.replicate 10 0xD6 ++ [0x01, 0x02, 0x03]

-- V96, V108
theorem test_insert :
    (after (.tpInsert imageV96) State.reset).result = .inserted true ∧
    (after (.hostInsert imageV96) State.reset).tape.info =
      { format := 0x4D, name := #v[0x48, 0x45, 0x4C, 0x4C, 0x4F, 0x20], version := 0x01
        startLine := #v[0x31, 0x30, 0x00, 0x00, 0x00], protection := 0x00, checkPos := 0x1234, startAddr := 0x49FB
        dataLen := 0x0003, checksum := 0x0ABC } ∧
    (after .tpEject (after (.tpInsert imageV96) State.reset)).tape.image = [] ∧
    (after .hostEject (after (.tpInsert imageV96) State.reset)).tape.info = blankMeta := by decide

-- V97 to V105
theorem test_insert_rejects :
    let error (b : List Byte) := (after (.tpInsert b) State.reset).tape.insertError
    error (imageV96.take 44) = some .lengthExceedsImage ∧ error (imageV96.take 41) = some .tooShort ∧
    error (imageV96.take 9) = some .tooShort ∧ error [] = some .tooShort ∧
    error (imageV96.set 9 0xD6) = some .badLeadingPreamble ∧ error (imageV96.set 32 0xD3) = some .badTrailingPreamble ∧
    error ((imageV96.set 0 0x00).set 41 0x00) = some .badLeadingPreamble ∧
    error (((imageV96.set 28 0).set 29 0).take 42) = none ∧ error (imageV96 ++ List.replicate 10 0xD6) = none ∧
    error ((imageV96.set 28 0xFF).set 29 0xFF) = some .lengthExceedsImage := by decide

-- V112
theorem test_tape_sync :
    (after .tpSync (withTape .awaitSync1 [800, 1700] 0 0)).tape.ring = [1700] ∧
    (after .tpSync (withTape .awaitSync1 [1700, 1650] 3 5)).tape.state = .headerBits ∧
    (after .tpSync (withTape .awaitSync1 [1700, 1650] 3 5)).tape.bitCount = 0 := by decide

-- V110 steps 4, 8 and 26, V113
theorem test_tape_bits :
    (after .tpBit0 (withTape .headerBits [1666, 1666] 0 0)).tape.bitCount = 1 ∧
    (after .tpBit1 (withTape .headerBits [833, 833, 833, 833] 1 0)).tape.curByte = 0x02 ∧
    (after .tpBit1 (withTape .headerBits [833, 833, 833, 833] 7 0x2A)).tape.decoded = [0xAA] ∧
    (after .tpBit1 (withTape .headerBits [833, 833, 833, 833] 7 0x2A)).tape.state = .awaitSync1 ∧
    (after .tpErr (withTape .headerBits [1666, 833, 833, 833] 0 0)).tape.state = .error ∧
    (after .tpErr (withTape .headerBits [833, 833, 833] 0 0)).tape.state = .headerBits := by decide

-- V114, V116
theorem test_tape_drain_notimpl_inert :
    (after .tpDrain (withTape .error [1, 2, 3, 4, 5] 0 0)).tape.ring = [2, 3, 4, 5] ∧
    (after .tpDrain { withTape .error [1] 0 0 with tape := { tapeReset with state := .error, ring := [1], drained := 15 }
      }).tape.state = .finished ∧
    (after .tpNotimpl (withTape .payload [] 0 0)).fault = some (.notImplementedTapeState .payload) ∧
    (after .tpInert (withTape .finished [7] 0 0)).tape.ring = [7] := by decide

-- V115: tick 100, tick 103
theorem test_tape_tick :
    (after (.tpTick 0b000 0x01) { State.reset with tape := { tapeReset with elapsed := 99 } }).tape.ring = [100] ∧
    (after (.tpTick 0b000 0x01) { State.reset with tape := { tapeReset with elapsed := 99 } }).tape.wdPrev = true ∧
    (after (.tpTick 0b100 0xFF) State.reset).tape.elapsed = 1 ∧ (after (.tpTick 0b100 0xFF) State.reset).tape.ring = [] := by
  decide

/-- The reset state with the record the CPU will answer next. -/
def withCpu (p : CpuPins) : State := { State.reset with outside := { outsideReset with cpu := [p] } }

-- R317: the hook's answer ends the run after its tick; R321: so does the host's request, in its turn
theorem test_run_stops :
    let two := { withCpu idlePins with outside := { outsideReset with cpu := [idlePins, idlePins] } }
    (after (.sysRun 2) { two with outside := { two.outside with hookInstalled := true, hook := [true] } }).result =
      .ticks 1 ∧
    (after (.sysRun 2) { two with outside := { two.outside with stopRequests := [true] } }).result = .ticks 1 ∧
    (after (.sysRun 2) { two with outside := { two.outside with stopRequests := [true] } }).stopFlag = true := by decide

-- R313: a memory read takes the router's answer as the data byte of the tick
theorem test_memory_read :
    (after .sysTick { withCpu { idlePins with mreq := true, rd := true } with
      outside := { outsideReset with cpu := [{ idlePins with mreq := true, rd := true }], mem := [0xC3] }
      }).cpuPins.d = 0xC3 := by decide

-- V117: a read of the tape port halts before the count; V118: a keyboard read folds the answer in
theorem test_sys_tick :
    (after .sysTick (withCpu { idlePins with a := 0xAF, iorq := true, rd := true })).fault = some .notImplementedTapeRead ∧
    (after .sysTick (withCpu { idlePins with a := 0xAF, iorq := true, rd := true })).tickCount = 0 ∧
    (after .sysTick { withCpu { idlePins with a := 0x8F, iorq := true, rd := true } with
      outside := { outsideReset with cpu := [{ idlePins with a := 0x8F, iorq := true, rd := true }], kbd := [0x5A] }
      }).cpuPins.d = 0x5A ∧
    (after .sysTick (withCpu idlePins)).tickInLine = 3 ∧ (after .sysTick (withCpu idlePins)).cpuPins.int = true := by decide

-- V119: the first raise wins
theorem test_first_raise_wins :
    (after .sysTick
      { withCpu { idlePins with a := 0xAF, iorq := true, rd := true } with
          r := #v[0xA0, 0, 0, 0, 0, 0, 0, 0], xqLatch := true, prevRw := false }).fault = some (.unknownOpcode 0xA0) := by
  decide

-- R316, R322, R360, R318
theorem test_run_reset_fb :
    (after (.sysRun 1) (withCpu idlePins)).result = .ticks 1 ∧
    (after (.sysRun 2) { withCpu idlePins with stopFlag := true }).result = .ticks 0 ∧
    (after .sysReset { withRegs 1 2 3 4 5 6 7 8 with fault := some .notImplementedTapeRead }).fault = none ∧
    getReg (after .hostReset (withRegs 1 2 3 4 5 6 7 8)) 7 = 0 ∧
    (after .hostReset { State.reset with vram := [(5, 9)] }).vram = [(5, 9)] ∧
    (after (.hostFb true) State.reset).result = .framebufferNull := by decide

/-- One tick with the strobe, one idle tick. -/
def short : BusTiming := ⟨1, 1⟩

-- P1 and P2: an address and a data cycle, and the read back
theorem test_script_writes :
    (after (.out 0x8F 0x25 short) State.reset).addrLatch = 0x25 ∧
    getReg (after (.wreg 5 0x77 short short) State.reset) 5 = 0x77 ∧
    getReg (after (.wregx 1 0x41 short short) (withRegs 0xB0 0 0 0 0 0 0x1F 0)) 6 = 0x08 ∧
    getReg (after (.cmd 0xB0 short short) (withRegs 0 0 0 0 0 0 0x1F 0)) 6 = 0x08 := by decide

theorem test_script_reads :
    (after (.rreg 5 short short) (withRegs 0 0 0 0 0 0x77 0 0)).result = .byteRead 0x77 ∧
    (after (.rreg 0 short short) (withRegs 0x81 0 0 0 0 0 0 0)).result = .byteRead 0x00 ∧
    (after (.inp 0xCF short) { withRegs 0 0 0 0x5A 0 0 0 0 with addrLatch := 0x03 }).result = .byteRead 0x5A ∧
    (after (.idle 2) State.reset).tickCount = 2 ∧
    (after (.kout 1 short) { State.reset with tape := { tapeReset with elapsed := 99 } }).tape.ring = [100] := by decide

-- P6: a dispatched 0xA0 leaves the register stored and the edge detector low
theorem test_script_halts :
    (after (.cmd 0xA0 short short) State.reset).fault = some (.unknownOpcode 0xA0) ∧
    getReg (after (.cmd 0xA0 short short) State.reset) 0 = 0xA0 ∧
    (after (.cmd 0xA0 short short) State.reset).prevRw = false ∧
    (after (.cmd 0xA0 short short) State.reset).tickInLine = 9 := by decide

theorem test_with_fetch_word :
    step (State.reset.withFetchWord 8 0x91) = .next { State.reset with log := [.unimplementedCommand 0x91] } := rfl

-- R4, R321: the host sets the stop flag in its turn before the step
theorem test_host_sets_stop_flag :
    step ({ State.reset with outside := { outsideReset with stopRequests := [true] } }.withFetchWord 8 0x91) =
      .next { State.reset with stopFlag := true, log := [.unimplementedCommand 0x91] } := rfl

theorem test_reset_memory_wf : State.reset.vram.wf = true ∧ State.reset.fb.wf = true := by decide

/-! ### Witnesses: each statement's hypotheses are met by a concrete state, each clause at a boundary -/

theorem configRef_constraints : configRef.Constraints := by unfold Config.Constraints; decide

theorem configRef_ports : PortsWired configRef := by unfold PortsWired; decide

theorem reset_busReady : BusReady State.reset :=
  ⟨rfl, by decide, configRef_ports, ⟨rfl, rfl, rfl⟩, .inl rfl, rfl⟩

theorem configRef_transcodeLaw : TranscodeLaw configRef := by
  intro blk col col' row row' _ _ h
  have h2 : transcodeRef blk col row = transcodeRef blk col' row' := h
  have hc := congrArg (fun v => v.extractLsb' 0 6) h2
  have hr := congrArg (fun v => (v.extractLsb' 6 7).extractLsb' 0 5) h2
  simp only [transcodeRef, extract_low_append] at hc
  simp only [transcodeRef, extract_high_append, extract_low_append] at hr
  exact ⟨hc, hr⟩

/-- A state that meets the invariant, on the last line of a frame, with one word left to run. -/
def lastLine : State := { State.reset with line := 311, script := [⟨.cmd, [0x91]⟩] }

theorem witness_EveryStepKeepsTheInvariant :
    Inv lastLine ∧ step lastLine = .next { lastLine with script := [], log := [.unimplementedCommand 0x91] } :=
  ⟨{ config := ⟨configRef_constraints, configRef_transcodeLaw⟩, derived := derive_reset.symm, line := by decide
     tick := by decide, vramForm := rfl, fbForm := rfl, vramRange := rfl, fbRange := rfl, fbColours := rfl
     addressMode := rfl
     tape := { size := by decide, reachable := by decide, bits := by decide, waiting := fun _ => by decide
               reading := fun h => (by cases h), draining := fun h => (by cases h), finished := fun h => (by cases h) } }, rfl⟩

theorem witness_DecodingAndEncodingAgree :
    (Instr.raCell 39 9 249).wf = true ∧ encode (.raCell 39 9 249) = ⟨.named .raCell, [39, 9, 249]⟩ := by decide

theorem witness_StepRunsDecodedOperation :
    decode ⟨.cmd, [0xFF]⟩ = .ok (.unimplMvt 15) ∧ decode ⟨.cmd, [0x100]⟩ = .error .operandRange ∧
    State.reset.script = [] ∧ State.reset.outside.stopRequests = [] := by decide

theorem witness_DecoderIsOneHot :
    let p : CpuPins := { idlePins with a := 0x00EF, iorq := true, wr := true }
    (p.a.getLsbD configRef.ceAddrBit = true ∧ p.iorq = true ∧ (p.rd = true ∨ p.wr = true)) ∧
    ¬ (idlePins.a.getLsbD configRef.ceAddrBit = true ∧ idlePins.iorq = true ∧ (idlePins.rd = true ∨ idlePins.wr = true)) ∧
    ({ p with d := 1, mreq := true, int := true, nmi := true } : CpuPins).a = p.a := by decide

theorem witness_ReferenceIoMap :
    (0x008F#16).extractLsb' 5 3 = 0b100 ∧ (0x00AF#16).extractLsb' 5 3 = 0b101 ∧ (0x00CF#16).extractLsb' 5 3 = 0b110 ∧
    (0xFFFF#16).extractLsb' 5 3 = 0b111 ∧ (0xFF7F#16).getLsbD 7 = false := by decide

theorem witness_DecoderOperationsDriveTheirLine :
    State.reset.fault = none ∧ State.reset.config.wire = wireRef := by decide

theorem witness_StrobesLatchAndStore :
    State.reset.fault = none ∧ ({ State.reset with addrLatch := 0xDF } : State).addrLatch.getLsbD 5 = false ∧
    ({ State.reset with addrLatch := 0x27 } : State).addrLatch.getLsbD 5 = true := by decide

theorem witness_DataStrobeReadsRegister :
    (0xE8#8).getLsbD 4 = false ∧ (0xE8#8).extractLsb' 0 3 = 0 ∧ (0x07#8).extractLsb' 0 3 ≠ 0 ∧
    (0x07#8).getLsbD 4 = false ∧ (0x10#8).getLsbD 4 = true := by decide

theorem witness_RegisterReadsBackOnTheBus :
    State.reset.fault = none ∧ (0x20#8).getLsbD 5 = true ∧ (0x20#8).getLsbD 4 = false ∧ (0x2F#8).getLsbD 5 = true ∧
    (0x2F#8).getLsbD 4 = false ∧
    let s2 := after (.vbRwFall 0x99) (after (.vbAsFall 0x2F true) State.reset)
    s2.fault = none ∧ s2.addrLatch = 0x2F ∧ getReg s2 7 = 0x99 := by decide

/-- The reset state about to execute a command, under a class table that differs from the reference in four opcodes. -/
def reclassed (c : Byte) : State :=
  { withRegs c 0 0 0 0 0 0x3F 0 with
      xqLatch := true
      config := { configRef with
        cmdClassAt := [(0x1, .implemented .nextRow), (0x2, .implemented .block), (0x3, .unimplemented), (0xB, .unrecognised)] } }

-- U3: what a bus write executes goes by the configuration's classes
theorem test_command_classes :
    getReg (after .vbRwRise (reclassed 0x15)) 6 = 0x28 ∧
    (after .vbRwRise (reclassed 0x24)).log = [.unimplementedCommand 0x24] ∧
    (after .vbRwRise (reclassed 0x31)).log = [.unimplementedCommand 0x31] ∧
    (after .vbRwRise (reclassed 0xB0)).fault = some (.unknownOpcode 0xB0) := by decide

theorem witness_RwRiseExecutesRegisterZero :
    (reclassed 0).fault = none ∧ (reclassed 0).xqLatch = true ∧ State.reset.xqLatch = false ∧
    cmdClass (reclassed 0).config 0x0 = cmdClassRef 0x0 ∧ cmdClass (reclassed 0).config 0x3 = .unimplemented ∧
    cmdClass (reclassed 0).config 0xB = .unrecognised ∧ cmdClass (reclassed 0).config 0x1 = .implemented .nextRow ∧
    cmdClass (reclassed 0).config 0x2 = .implemented .block ∧ cmdClassRef 0xB = .implemented .nextRow ∧
    cmdClassRef 0x0 = .implemented .block ∧ (0x4#4).getLsbD 2 = true := by decide

theorem witness_PointerAddressesUnderReference :
    State.reset.config.transcodeAt = [] ∧ State.reset.config.ptrBlockAt = [] := by decide

theorem witness_transfers :
    (withRegs 0 1 2 3 0 0 0x1F 0x27).fault = none ∧ (withRegs 0 1 2 3 0 0 0x1F 0x27).vram.wf = true ∧
    (40 ≤ ((0x27#8).extractLsb' 0 6).toNat + 1) ∧ ¬ (40 ≤ ((0x26#8).extractLsb' 0 6).toNat + 1) := by decide

theorem witness_ByteTransfers_wrap : ColumnWraps 0x27 ∧ ¬ ColumnWraps 0x26 := by unfold ColumnWraps; decide

theorem witness_IndirectWriteRecomputes :
    State.reset.fault = none ∧ State.reset.cfg = derive State.reset.ir ∧ (2#3) ∈ [0#3, 2#3, 4#3, 5#3, 6#3] := by decide

theorem witness_IndirectReadsBack :
    let t := after (.indW 7) (withRegs 0 0x55 0 0 0 0 0 0)
    t.fault = none ∧ getIReg t 7 = 0x55 := by decide

theorem witness_CommandsTouchOnlyTheirParts :
    encodeCmd? (.octWMp true) = some 0x31 ∧ encodeCmd? (.unknownA 0) = some 0xA0 ∧
    (after (.unknownA 0) State.reset).fault ≠ State.reset.fault := by decide

theorem witness_PointersAreIndependent :
    State.reset.fault = none ∧
    (∃ inc p, Instr.octRMp true ∈ [Instr.krfW inc, .krfR inc, .krgW inc, .krgR inc, .octWMp inc, .octRMp inc, .iny p]) ∧
    (∃ inc, Instr.octWAp true ∈ [Instr.octWAp inc, .octRAp inc]) :=
  ⟨rfl, ⟨true, 0, by decide⟩, ⟨true, by decide⟩⟩

theorem witness_RasterAdvances :
    let perLine := ticksPerLine State.reset.config State.reset.cfg.linesPerFrame
    766 + 1 < perLine ∧ perLine ≤ 767 + 1 ∧ State.reset.cfg.linesPerFrame ≤ 311 + 1 ∧
    310 + 1 < State.reset.cfg.linesPerFrame := by decide

theorem witness_RasterPositionAfterTicks :
    State.reset.fault = none ∧ ModeAccepted State.reset ∧ State.reset.line = 0 ∧ State.reset.tickInLine = 0 ∧
    0 < ticksPerLine State.reset.config State.reset.cfg.linesPerFrame ∧ 0 < State.reset.cfg.linesPerFrame :=
  ⟨rfl, .inl rfl, rfl, rfl, by decide, by decide⟩

/-- The reset state on a raster position. -/
def atPosition (line tick : Nat) : State := { State.reset with line := line, tickInLine := tick }

/-- The reset state in a character mode. -/
def inMode (m : BitVec 3) : State := { State.reset with cfg := { cfgReset with charMode := m } }

theorem witness_RowReload :
    State.reset.fault = none ∧ ModeAccepted State.reset ∧ ModeAccepted (inMode 4) ∧
    State.reset.config.layout = cellLayoutRef ∧
    read3 cellLayoutRef.kind 0x80 = cellLayoutRef.delimPattern ∧ read3 cellLayoutRef.kind 0xA0 ≠ cellLayoutRef.delimPattern ∧
    (inMode 1).cfg.charMode = 1 ∧ (inMode 3).cfg.charMode = 3 ∧ (inMode 5).cfg.charMode = 5 ∧
    (inMode 7).cfg.charMode = 7 :=
  ⟨rfl, .inl rfl, .inr rfl, rfl, by decide, by decide, rfl, rfl, rfl, rfl⟩

theorem witness_CellRenderWritesEightBytes :
    State.reset.fault = none ∧ State.reset.fb.wf = true ∧ 39 < 40 ∧ 9 < 10 ∧ 10 ≤ 249 ∧ 249 < 250 := by decide

theorem witness_RasterTick :
    (atPosition 9 0).line < (atPosition 9 0).config.vActiveStart ∧ configRef.vActiveStart + 250 ≤ (atPosition 260 0).line ∧
    (atPosition 10 0).line = configRef.vActiveStart + 0 ∧ (atPosition 19 5).line = configRef.vActiveStart + 9 ∧
    (atPosition 20 0).line = configRef.vActiveStart + 10 ∧ (atPosition 259 588).line = configRef.vActiveStart + 249 ∧
    (atPosition 259 588).tickInLine = configRef.hActiveStart + 39 * configRef.ticksPerCell ∧
    (∀ c < 40, (atPosition 20 0).tickInLine ≠ configRef.hActiveStart + c * configRef.ticksPerCell) ∧
    0 < configRef.ticksPerCell ∧ ModeAccepted (atPosition 20 0) ∧ charModeFault (inMode 2).cfg.charMode ≠ none :=
  ⟨by decide, by decide, rfl, rfl, rfl, rfl, rfl, by decide, by decide, .inl rfl, by decide⟩

theorem witness_RasterTick_faulting : ¬ ModeAccepted { inMode 2 with line := 20 } := by unfold ModeAccepted; decide

theorem witness_InsertChecksInOrder :
    configRef.tapeMax < 65589 ∧ imageV96.length ≤ configRef.tapeMax ∧ (imageV96.take 41).length < 42 ∧
    (∃ j < 10, (imageV96.set 9 0xD6).getD j 0 ≠ 0xD3) ∧ (∃ j < 10, (imageV96.set 41 0xD3).getD (32 + j) 0 ≠ 0xD6) ∧
    (¬ ∃ j < 10, imageV96.getD j 0 ≠ 0xD3) ∧ (¬ ∃ j < 10, imageV96.getD (32 + j) 0 ≠ 0xD6) ∧
    32 + (imageV96.getD 29 0 ++ imageV96.getD 28 0).toNat + 10 ≤ imageV96.length ∧
    ¬ 32 + (imageV96.getD 29 0 ++ imageV96.getD 28 0).toNat + 10 ≤ (imageV96.take 44).length := by decide

theorem witness_InsertedHeaderReadsBack :
    (3#16).toNat ≤ [1#8, 2, 3].length ∧
    (makeImage 0x4D #v[0, 0, 0, 0, 0, 0] 1 #v[0, 0, 0, 0, 0] 0 0x1234 0x49FB 3 0xABC [1, 2, 3]).length ≤ configRef.tapeMax ∧
    0 < (3#16).toNat := by decide

theorem witness_CodecTickFollowsTheWire :
    (0x00#8).getLsbD configRef.tapeWdataBit = State.reset.tape.wdPrev ∧
    (0x01#8).getLsbD configRef.tapeWdataBit ≠ State.reset.tape.wdPrev ∧ (toggle 1 State.reset).fault = none ∧
    (toggle 1 (withTape .awaitSync2 [] 0 0)).fault ≠ none := by decide

/-- Two long pulses at the front of a ring. -/
def LongFront (ring : List Nat) : Prop :=
  ∃ a b rest, ring = a :: b :: rest ∧ isLong configRef a = true ∧ isLong configRef b = true

/-- Four short pulses at the front of a ring. -/
def ShortFront (ring : List Nat) : Prop :=
  ∃ w x y z rest, ring = w :: x :: y :: z :: rest ∧ isShort configRef w = true ∧ isShort configRef x = true ∧
    isShort configRef y = true ∧ isShort configRef z = true

theorem witness_pulse_patterns :
    LongFront [1250, 2500] ∧ ShortFront [500, 1249, 833, 500] ∧ ¬ LongFront [500, 1249, 833, 500] ∧
    ¬ LongFront [1666, 833, 833, 833] ∧ ¬ ShortFront [1666, 833, 833, 833] ∧ ¬ LongFront [833] ∧ ¬ ShortFront [833] := by
  refine ⟨⟨1250, 2500, [], rfl, by decide, by decide⟩,
    ⟨500, 1249, 833, 500, [], rfl, by decide, by decide, by decide, by decide⟩, ?_, ?_, ?_, ?_, ?_⟩
  · rintro ⟨a, b, rest, h, ha, -⟩; cases h; exact absurd ha (by decide)
  · rintro ⟨a, b, rest, h, -, hb⟩; cases h; exact absurd hb (by decide)
  · rintro ⟨w, x, y, z, rest, h, hw, -⟩; cases h; exact absurd hw (by decide)
  · rintro ⟨a, b, rest, h, -⟩; cases h
  · rintro ⟨w, x, y, z, rest, h, -⟩; cases h

theorem witness_SynchroSearchTakesFirstLongPair :
    (withTape .awaitSync1 [833, 1666, 1666] 0 0).tape.state = .awaitSync1 ∧
    (∃ a b, [833, 1666, 1666][1]? = some a ∧ [833, 1666, 1666][1 + 1]? = some b ∧ isLong configRef a = true ∧
      isLong configRef b = true) ∧
    (withTape .headerBits [] 0 0).tape.state ≠ .awaitSync1 :=
  ⟨rfl, ⟨1666, 1666, rfl, rfl, by decide, by decide⟩, by decide⟩

theorem witness_SynchroSearch_none :
    ∀ j, ¬ ∃ a b, [833][j]? = some a ∧ [833][j + 1]? = some b ∧ isLong configRef a = true ∧ isLong configRef b = true := by
  rintro j ⟨a, b, -, hb, -⟩
  simp at hb

theorem witness_DrainHaltAndInert :
    (withTape .error [9] 0 0).tape.state = .error ∧ (withTape .error [9] 0 0).tape.ring = 9 :: [] ∧
    (withTape .awaitSync2 [] 0 0).tape.state = .awaitSync2 ∧ (withTape .finished [] 0 0).tape.state ≠ .payload := by decide

/-- The pulses of the byte 0xAA (V110): the synchro, then a 0 and a 1 four times. -/
def pulsesAA : List Nat :=
  [1666, 1666] ++ (List.replicate 4 [1666, 1666, 833, 833, 833, 833]).flatten

theorem pair_carries (p q : Nat) (bs : List Bool) (rest : List Nat) (hp : isLong configRef p) (hq : isLong configRef q)
    (h : pulsesCarry configRef bs rest) : pulsesCarry configRef (false :: bs) (p :: q :: rest) :=
  ⟨p, q, rest, rfl, hp, hq, h⟩

theorem four_carry (w x y z : Nat) (bs : List Bool) (rest : List Nat) (hw : isShort configRef w)
    (hx : isShort configRef x) (hy : isShort configRef y) (hz : isShort configRef z)
    (h : pulsesCarry configRef bs rest) : pulsesCarry configRef (true :: bs) (w :: x :: y :: z :: rest) :=
  ⟨w, x, y, z, rest, rfl, hw, hx, hy, hz, h⟩

theorem witness_TapeMessageDecodes :
    State.reset.fault = none ∧ State.reset.config.Constraints ∧ State.reset.tape.state = .awaitSync1 ∧
    State.reset.tape.ring = [] ∧ pulsesCarryBytes State.reset.config [0xAA] pulsesAA := by
  have hl : isLong configRef 1666 = true := by decide
  have hs : isShort configRef 833 = true := by decide
  refine ⟨rfl, configRef_constraints, rfl, rfl, 1666, 1666, pulsesAA.drop 2, [], rfl, hl, hl, ?_, rfl⟩
  have step (bs : List Bool) (rest : List Nat) (h : pulsesCarry configRef bs rest) :
      pulsesCarry configRef (false :: true :: bs) (1666 :: 1666 :: 833 :: 833 :: 833 :: 833 :: rest) :=
    pair_carries _ _ _ _ hl hl (four_carry _ _ _ _ _ _ hs hs hs hs h)
  exact step _ _ (step _ _ (step _ _ (step _ _ rfl)))

theorem witness_FinishedIsTerminal :
    (withTape .finished [] 0 0).tape.state = .finished ∧
    (∃ t, exec (.tpTick 0 1) (withTape .finished [] 0 0) = .next t) ∧ ¬ resetsCodec (.tpTick 0 1) :=
  ⟨rfl, ⟨_, rfl⟩, by simp [resetsCodec]⟩

theorem witness_HaltedBlockStays :
    ({ State.reset with fault := some .notImplementedTapeRead } : State).fault = some .notImplementedTapeRead ∧
    isHostCall .sysTick = false ∧ Instr.wf .sysTick = true := by decide

theorem witness_OnlyResetClearsTheFault :
    (∃ t, exec .sysReset { State.reset with fault := some .notImplementedTapeRead } = .next t) ∧
    (∃ t, exec (.sysRun 3) { State.reset with fault := some .notImplementedTapeRead } = .next t) ∧
    Instr.sysRun 3 ≠ .sysReset ∧ Instr.sysRun 3 ≠ .hostReset :=
  ⟨⟨_, rfl⟩, ⟨_, rfl⟩, by decide, by decide⟩

theorem witness_SystemTickCompletes :
    let s := withCpu { idlePins with a := 0xCF, iorq := true, wr := true }
    let rising := { withCpu idlePins with prevRw := false }
    let reading := withCpu { idlePins with a := 0xCF, iorq := true, rd := true }
    s.fault = none ∧ ModeAccepted s ∧ s.prevRw = true ∧ s.tape.state ≠ .awaitSync2 ∧ s.tape.state ≠ .payload ∧
    1 ≤ s.config.ratio ∧ (busDecode s.config (cpuAnswer s)).tapeRd = true ∧
    (busDecode s.config (cpuAnswer s)).rw = false ∧ (busDecode rising.config (cpuAnswer rising)).rw = true ∧
    (busDecode rising.config (cpuAnswer rising)).as = true ∧ rising.xqLatch = false ∧
    (busDecode reading.config (cpuAnswer reading)).ds = false ∧ reading.addrLatch.getLsbD 4 = false :=
  ⟨rfl, .inl rfl, rfl, by decide, by decide, by decide, by decide, by decide, by decide, by decide, rfl, by decide,
    by decide⟩

/-- A tick in which the write that asked for INY ends: the one edge is the rising edge of `RW`. -/
def endingWrite : State :=
  { withCpu idlePins with prevRw := false, xqLatch := true, r := #v[0xB0, 0, 0, 0, 0, 0, 0x1F, 0] }

theorem witness_SystemTickCompletes_command :
    edgesOf endingWrite (busDecode configRef idlePins) 0 = [.vbRwRise] ∧
    (after .sysTick endingWrite).fault = none ∧ getReg (after .sysTick endingWrite) 6 = 0x08 ∧
    ∃ u, runsTo [.vbRwRise] endingWrite u ∧ u.fault = none :=
  ⟨by decide, by decide, by decide, _, ⟨_, rfl, rfl⟩, by decide⟩

theorem witness_FirstRaiseEndsTheTick :
    let s := withCpu { idlePins with a := 0xAF, iorq := true, rd := true }
    let u := { s with prevRw := false, xqLatch := true, r := #v[0xCF, 0, 0, 0, 0, 0, 0, 0] }
    s.fault = none ∧ ModeAccepted s ∧ s.prevRw = true ∧ (busDecode s.config (cpuAnswer s)).tapeRd = false ∧
    1 ≤ u.config.ratio ∧ (busDecode u.config (cpuAnswer u)).as = true ∧ (busDecode u.config (cpuAnswer u)).rw = true ∧
    cmdClass u.config ((getReg u 0).extractLsb' 4 4) = .unrecognised :=
  ⟨rfl, .inl rfl, rfl, by decide, by decide, by decide, by decide, by decide⟩

/-- A tick that reads the tape port on the first line of text row 24, in a character mode no reload accepts. -/
def rejectedReload : State :=
  { withCpu { idlePins with a := 0xAF, iorq := true, rd := true } with
      line := 250, cfg := { cfgReset with charMode := 5 } }

theorem witness_FirstRaiseEndsTheTick_mode :
    rejectedReload.fault = none ∧ rejectedReload.prevRw = true ∧
    rejectedReload.line = rejectedReload.config.vActiveStart + 10 * 24 ∧ rejectedReload.tickInLine = 0 ∧
    charModeFault rejectedReload.cfg.charMode = some (.unknownCharMode 5) ∧
    (busDecode rejectedReload.config (cpuAnswer rejectedReload)).tapeRd = false ∧
    (after .sysTick rejectedReload).fault = some (.unknownCharMode 5) := by decide

theorem witness_RunReturnsCompletedTicks :
    ({ State.reset with stopFlag := true } : State).stopFlag = true ∧ State.reset.stopFlag = false ∧
    State.reset.outside.hookInstalled = false ∧ true ∉ State.reset.outside.stopRequests ∧
    (after (.sysRun 1) (withCpu idlePins)).fault = none := by decide

theorem witness_OnlyTheseWriteMemory :
    (∃ t, exec (.iny 0) State.reset = .next t) ∧ ¬ ticksBlock (.iny 0) ∧ ¬ storesVram (.iny 0) ∧ Instr.iny 0 ≠ .raTick ∧
    (∀ c sl al, Instr.iny 0 ≠ .raCell c sl al) :=
  ⟨⟨_, rfl⟩, by simp [ticksBlock], by simp [storesVram], by decide, fun _ _ _ => by simp⟩

theorem witness_bus_cycles :
    BusReady State.reset ∧ short.wf = true ∧ State.reset.xqLatch = false ∧ State.reset.addrLatch.getLsbD 4 = false ∧
    State.reset.addrLatch.extractLsb' 0 3 = 0 ∧ (0x27#8).extractLsb' 0 3 ≠ 0 ∧ (0x30#8).getLsbD 4 ≠ false :=
  ⟨reset_busReady, by decide, by decide, by decide, by decide, by decide, by decide⟩

theorem witness_ExecutingWriteRunsTheCommand :
    let ends (c : Byte) := after .vbRwRise { setReg 0 c State.reset with xqLatch := true }
    BusReady State.reset ∧ (ends 0xB0).fault = none ∧ ModeAccepted (ends 0xB0) ∧ (ends 0xA0).fault ≠ none ∧
    cmdClass State.reset.config 0xB = cmdClassRef 0xB :=
  ⟨reset_busReady, by decide, .inl (by decide), by decide, by decide⟩

theorem witness_TapeWriteTogglesTheLine :
    BusReady State.reset ∧ State.reset.tape.state ≠ .awaitSync2 ∧ State.reset.tape.state ≠ .payload ∧
    (0x00#8).getLsbD configRef.tapeWdataBit = State.reset.tape.wdLatch ∧
    (0x01#8).getLsbD configRef.tapeWdataBit ≠ State.reset.tape.wdLatch :=
  ⟨reset_busReady, by decide, by decide, by decide, by decide⟩

end Sys2Proof.Machine.Tests
end

section
/-! PROOFS of the family `00_scope`: the halt (00_scope R9, 45_system_tick R311). An operation that is not a host call is
either one sub-step of a tick, or ticks the block; a halted block stays as it is under both. -/
namespace Sys2Proof.Machine

/-! ### Ticks on a halted block -/

section
variable {s : State} {e : Fault}

theorem sysTick_halted (h : s.fault = some e) : sysTick s = s := live_of_halted s _ e h

theorem outTick_halted (port v : Byte) (h : s.fault = some e) : outTick port v s = s := live_of_halted s _ e h

theorem inTick_halted (port : Byte) (h : s.fault = some e) : inTick port s = s := live_of_halted s _ e h

theorem idleTick_halted (h : s.fault = some e) : idleTick s = s := live_of_halted s _ e h

/-- A tick that leaves a state as it is leaves it so however often it is repeated. -/
theorem repeatTick_fixed (f : State → State) (n : Nat) (h : f s = s) : repeatTick f n s = s := by
  induction n with
  | zero => rfl
  | succ n ih => rw [repeatTick, h, ih]

theorem busOut_halted (port v : Byte) (t : BusTiming) (h : s.fault = some e) : busOut port v t s = s := by
  rw [busOut, repeatTick_fixed _ _ (outTick_halted port v h), repeatTick_fixed _ _ (idleTick_halted h)]

theorem busIn_halted (port : Byte) (t : BusTiming) (h : s.fault = some e) : busIn port t s = s := by
  rw [busIn, inTick_halted port h, live_of_halted s takeRead e h, repeatTick_fixed _ _ (inTick_halted port h),
    repeatTick_fixed _ _ (idleTick_halted h)]

theorem busIdle_halted (k : Nat) (h : s.fault = some e) : busIdle k s = s := repeatTick_fixed _ k (idleTick_halted h)

theorem writeReg_halted (n : BitVec 3) (v : Byte) (t1 t2 : BusTiming) (h : s.fault = some e) :
    writeReg n v t1 t2 s = s := by
  rw [writeReg, busOut_halted _ _ t1 h, busOut_halted _ _ t2 h]

theorem writeRegX_halted (n : BitVec 3) (v : Byte) (t1 t2 : BusTiming) (h : s.fault = some e) :
    writeRegX n v t1 t2 s = s := by
  rw [writeRegX, busOut_halted _ _ t1 h, busOut_halted _ _ t2 h]

theorem readReg_halted (n : BitVec 3) (t1 t2 : BusTiming) (h : s.fault = some e) : readReg n t1 t2 s = s := by
  rw [readReg, busOut_halted _ _ t1 h, busIn_halted _ t2 h]

end

/-! ### Operations -/

/-- An operation that is neither a host call nor ticks the block is one sub-step, which runs only in a block that is not
halted. -/
theorem exec_eq_live (i : Instr) (hhost : isHostCall i = false) (htick : ¬ ticksBlock i) (hwf : i.wf = true) :
    ∃ f : State → State, ∀ s, exec i s = .next (live f s) := by
  cases i with
  | tpInsert | tpEject | sysRun | sysReset | hostFb | hostInsert | hostEject | hostReset => cases hhost
  | sysTick | out | inp | idle | wreg | wregx | rreg | cmd | kout => simp [ticksBlock] at htick
  | raRowReload k => exact ⟨rowReload k, fun _ => if_pos hwf⟩
  | raCell c sl al => exact ⟨renderCell c sl al, fun _ => if_pos hwf⟩
  | _ => exact ⟨_, fun _ => rfl⟩

/-- An operation that ticks the block and is no host call is a system tick or a bus script of idle, OUT and IN ticks. -/
theorem exec_ticksBlock_halted (i : Instr) (s : State) (e : Fault) (h : s.fault = some e) (hhost : isHostCall i = false)
    (htick : ticksBlock i) (hwf : i.wf = true) : exec i s = .next s := by
  rcases htick with rfl | ⟨n, rfl⟩ | ⟨port, v, t, rfl⟩ | ⟨port, t, rfl⟩ | ⟨k, rfl⟩ | ⟨n, v, t1, t2, rfl | rfl⟩ |
    ⟨n, t1, t2, rfl⟩ | ⟨c, t1, t2, rfl⟩ | ⟨b, t, rfl⟩
  · exact congrArg _ (sysTick_halted h)
  · cases hhost
  · exact (if_pos hwf).trans (congrArg _ (busOut_halted port v t h))
  · exact (if_pos hwf).trans (congrArg _ (busIn_halted port t h))
  · exact congrArg _ (busIdle_halted k h)
  · exact (if_pos hwf).trans (congrArg _ (writeReg_halted n v t1 t2 h))
  · exact (if_pos hwf).trans (congrArg _ (writeRegX_halted n v t1 t2 h))
  · exact (if_pos hwf).trans (congrArg _ (readReg_halted n t1 t2 h))
  · exact (if_pos hwf).trans (congrArg _ (writeRegX_halted 0 c t1 t2 h))
  · exact (if_pos hwf).trans (congrArg _ (busOut_halted _ b t h))

/-- Settles O47: an operation of the block ticks it or is one of its sub-steps, and neither acts once a fault is marked
(00_scope R9). -/
theorem haltedBlockStays : Obligations.HaltedBlockStays := by
  intro i s e h hhost hwf
  by_cases htick : ticksBlock i
  · exact exec_ticksBlock_halted i s e h hhost htick hwf
  · obtain ⟨f, hf⟩ := exec_eq_live i hhost htick hwf
    rw [hf, live_of_halted s f e h]

end Sys2Proof.Machine
end

section
/-! PROOFS of the family `10_state`, which operations write the memories (10_state R38, R40). What a sub-step leaves as
it was is said of a part of the state. The part here is all that the invariant speaks of, so that the same lemmas serve
both the memories and the invariant. -/
namespace Sys2Proof.Machine

/-! ### Leaving a part of the state as it is -/

/-- The sub-step leaves the part `p` of every state as it is. -/
def Leaves {α : Type} (p : State → α) (f : State → State) : Prop := ∀ s, p (f s) = p s

section
variable {α : Type} {p : State → α} {f : State → State} {s t : State}

theorem leaves_live (hf : Leaves p f) : Leaves p (live f) := fun s => by
  rcases live_cases s f with ⟨-, he⟩ | ⟨-, he⟩ <;> rw [he]
  exact hf s

theorem leaves_onlyIf (c : Bool) (hf : Leaves p f) : Leaves p (onlyIf c f) := fun s => by
  cases c
  · rfl
  · exact hf s

/-- A sub-step with a frame leaves every part that the frame does not put back. -/
theorem leaves_of_frame {restore : State → State → State} (hf : ∀ s, restore s (f s) = s)
    (hp : ∀ s t, p (restore s t) = p t) : Leaves p f := fun s => by
  rw [← hp s, hf]

theorem leaves_of_next (h : (.next (f s) : Result) = .next t) (hf : Leaves p f) : p t = p s := by
  cases h; exact hf s

theorem leaves_of_next_live (h : (.next (live f s) : Result) = .next t) (hf : Leaves p f) : p t = p s :=
  leaves_of_next h (leaves_live hf)

end

/-- A meaning with a guard on its operands answers a next state only under the guard. -/
theorem guarded_next {c : Prop} [Decidable c] {r : Refusal} {t u : State}
    (h : (if c then .next u else .refused r : Result) = .next t) : c ∧ u = t := by
  split at h
  · next hc => exact ⟨hc, by cases h; rfl⟩
  · cases h

/-! ### The part of the state that the invariant constrains -/

/-- What the invariant speaks of: configuration, derived configuration with its registers, raster position, the two
memories, the address mode on the pins, and the codec. -/
def invPart (s : State) :
    Config × DerivedCfg × Vector Byte 8 × (Nat × Nat) × (Memory × Memory) × BitVec 6 × Tape :=
  (s.config, s.cfg, s.ir, (s.line, s.tickInLine), (s.vram, s.fb), s.pins.am, s.tape)

theorem invPart_raise (e : Fault) : Leaves invPart (raise e) := fun s => by
  simp only [raise]; split <;> rfl

theorem invPart_incCol (k : BitVec 3) (carry : Bool) : Leaves invPart (incCol k carry) :=
  leaves_of_frame (restore := fun s t => { t with r := s.r }) (fun s => incCol_onlyRegs s k carry) fun _ _ => rfl

theorem invPart_incMp (inc carry : Bool) : Leaves invPart (incMp inc carry) :=
  leaves_onlyIf inc (invPart_incCol 7 carry)

theorem invPart_incAp (inc : Bool) : Leaves invPart (incAp inc) := leaves_onlyIf inc (invPart_incCol 5 false)

/-- The loads change direct registers only. -/
theorem invPart_krfR (inc : Bool) : Leaves invPart (krfR inc) := fun _ => invPart_incMp inc false _

theorem invPart_krgR (inc : Bool) : Leaves invPart (krgR inc) := fun _ => invPart_incMp inc false _

theorem invPart_octRMp (inc : Bool) : Leaves invPart (octRMp inc) := fun _ => invPart_incMp inc true _

theorem invPart_octRAp (inc : Bool) : Leaves invPart (octRAp inc) := fun _ => invPart_incAp inc _

theorem invPart_dsFall (rw : Level) : Leaves invPart (dsFall rw) := fun s => by
  simp only [dsFall, onlyIf]
  split
  · split <;> rfl
  · rfl

theorem invPart_rwFall (ad : Byte) : Leaves invPart (rwFall ad) := fun s => by
  simp only [rwFall, onlyIf]; split <;> rfl

theorem invPart_rowReload (k : Nat) : Leaves invPart (rowReload k) := fun s => by
  simp only [rowReload]
  split
  · rfl
  · exact invPart_raise _ s

theorem invPart_pulseNotimpl : Leaves invPart pulseNotimpl := fun s => invPart_raise _ s

/-! ### Which operations move that part -/

/-- The operations that write the framebuffer by themselves: cell render, raster tick and reset (10_state R38). -/
def writesFb (i : Instr) : Prop :=
  i = .raTick ∨ (∃ c sl al, i = .raCell c sl al) ∨ i = .sysReset ∨ i = .hostReset

/-- The operations that change the tape or its codec (44_tape_codec). -/
def runsCodec (i : Instr) : Prop :=
  (∃ image, i = .tpInsert image ∨ i = .hostInsert image) ∨ (i = .tpEject ∨ i = .hostEject) ∨
  (∃ svc d, i = .tpTick svc d) ∨ i = .tpSync ∨ i = .tpBit0 ∨ i = .tpBit1 ∨ i = .tpErr ∨ i = .tpDrain

/-- The operations that change what the invariant speaks of. -/
def movesInvPart (i : Instr) : Prop :=
  ticksBlock i ∨ storesVram i ∨ writesFb i ∨ runsCodec i ∨ (∃ r, i = .indW r) ∨ i = .raAdvance

section
variable {i : Instr} {s t : State}

/-- Every other operation leaves what the invariant speaks of. -/
theorem exec_invPart (h : exec i s = .next t) (hi : ¬ movesInvPart i) : invPart t = invPart s := by
  cases i with
  | sysTick | sysRun | out | inp | idle | wreg | wregx | rreg | cmd | kout => simp [movesInvPart, ticksBlock] at hi
  | krfW | krgW | octWMp | octWAp | vbRwRise => simp [movesInvPart, storesVram] at hi
  | raTick | raCell | sysReset | hostReset => simp [movesInvPart, writesFb] at hi
  | tpInsert | hostInsert | tpEject | hostEject | tpTick | tpSync | tpBit0 | tpBit1 | tpErr | tpDrain =>
    simp [movesInvPart, runsCodec] at hi
  | indW | raAdvance => simp [movesInvPart] at hi
  | vbDsFall rw => exact leaves_of_next_live h (invPart_dsFall rw)
  | vbRwFall ad => exact leaves_of_next_live h (invPart_rwFall ad)
  | krfR inc => exact leaves_of_next_live h (invPart_krfR inc)
  | krgR inc => exact leaves_of_next_live h (invPart_krgR inc)
  | octRMp inc => exact leaves_of_next_live h (invPart_octRMp inc)
  | octRAp inc => exact leaves_of_next_live h (invPart_octRAp inc)
  | unknownA | unknownC => exact leaves_of_next_live h (invPart_raise _)
  | raRowReload k =>
    obtain ⟨-, rfl⟩ := guarded_next h
    exact leaves_live (invPart_rowReload k) s
  | tpNotimpl => exact leaves_of_next_live h fun s => leaves_onlyIf _ invPart_pulseNotimpl s
  | hostFb => exact leaves_of_next (p := invPart) h fun _ => rfl
  | _ => exact leaves_of_next_live (p := invPart) h fun _ => rfl

/-! ### The two memories -/

/-- Video RAM and the framebuffer. -/
def memories (s : State) : Memory × Memory := (s.vram, s.fb)

theorem memories_of_invPart (h : invPart t = invPart s) : memories t = memories s :=
  congrArg (fun x => x.2.2.2.2.1) h

/-- A store, or the edge that runs a command, leaves the framebuffer. -/
theorem exec_storesVram_fb (h : exec i s = .next t) (hi : storesVram i) : t.fb = s.fb := by
  rcases hi with ⟨inc, rfl | rfl | rfl | rfl⟩ | rfl
  · exact leaves_of_next_live h (leaves_of_frame (fun s => incMp_frame s _ inc false rfl) fun _ _ => rfl)
  · exact leaves_of_next_live h (leaves_of_frame (fun s => incMp_frame s _ inc false rfl) fun _ _ => rfl)
  · exact leaves_of_next_live h (leaves_of_frame (fun s => incMp_frame s _ inc true rfl) fun _ _ => rfl)
  · exact leaves_of_next_live h (leaves_of_frame (fun s => incAp_frame s _ inc rfl) fun _ _ => rfl)
  · have hd (c : Byte) : Leaves State.fb (dispatch c) := leaves_of_frame (fun s => dispatch_frame s c) fun _ _ => rfl
    exact leaves_of_next_live h fun s => leaves_onlyIf _ (hd _) s

/-- An operation that writes the framebuffer leaves video RAM; reset keeps it (70_reset R365). -/
theorem exec_writesFb_vram (h : exec i s = .next t) (hi : writesFb i) : t.vram = s.vram := by
  rcases hi with rfl | ⟨c, sl, al, rfl⟩ | rfl | rfl
  · exact leaves_of_next_live h (leaves_of_frame rasterStep_restore fun _ _ => rfl)
  · obtain ⟨-, rfl⟩ := guarded_next h
    exact leaves_live (p := State.vram)
      (leaves_of_frame (fun s => renderCell_restore s c sl al) fun _ _ => rfl) s
  · exact leaves_of_next (p := State.vram) h fun _ => rfl
  · exact leaves_of_next (p := State.vram) h fun _ => rfl

theorem memories_insert (image : List Byte) : Leaves memories (insert image) := fun s => by
  simp only [insert]; split <;> rfl

theorem memories_ifSelected (op : PulseOp) {f : State → State} (hf : Leaves memories f) :
    Leaves memories (ifSelected op f) := fun s => leaves_onlyIf _ hf s

theorem memories_advance : Leaves memories advance := fun s => by
  simp only [advance]; split <;> rfl

/-- The codec leaves both memories. -/
theorem exec_runsCodec_memories (h : exec i s = .next t) (hi : runsCodec i) : memories t = memories s := by
  rcases hi with ⟨image, rfl | rfl⟩ | (rfl | rfl) | ⟨svc, d, rfl⟩ | rfl | rfl | rfl | rfl | rfl
  · obtain ⟨-, rfl⟩ := guarded_next h; exact memories_insert image s
  · obtain ⟨-, rfl⟩ := guarded_next h; exact memories_insert image s
  · exact leaves_of_next (p := memories) h fun _ => rfl
  · exact leaves_of_next (p := memories) h fun _ => rfl
  · exact leaves_of_next_live h (leaves_of_frame (fun s => tapeTick_restore s _ d) fun _ _ => rfl)
  all_goals exact leaves_of_next_live h (memories_ifSelected _ fun _ => rfl)

/-- An operation that ticks no block, stores nothing and renders nothing leaves both memories. -/
theorem exec_memories (h : exec i s = .next t) (htick : ¬ ticksBlock i) (hstore : ¬ storesVram i)
    (hfb : ¬ writesFb i) : memories t = memories s := by
  by_cases hi : movesInvPart i
  · rcases hi with hi | hi | hi | hi | ⟨r, rfl⟩ | rfl
    · exact absurd hi htick
    · exact absurd hi hstore
    · exact absurd hi hfb
    · exact exec_runsCodec_memories h hi
    · exact leaves_of_next_live (p := memories) h fun _ => rfl
    · exact leaves_of_next_live h memories_advance
  · exact memories_of_invPart (exec_invPart h hi)

end

/-- Settles O54: an operation that ticks no block stores to video RAM, or writes the framebuffer, or leaves both. -/
theorem onlyTheseWriteMemory : Obligations.OnlyTheseWriteMemory := by
  intro i s t h htick
  refine ⟨fun hstore => ?_, fun htk hcell hsr hhr => ?_⟩
  · by_cases hfb : writesFb i
    · exact exec_writesFb_vram h hfb
    · exact congrArg Prod.fst (exec_memories h htick hstore hfb)
  · have hfb : ¬ writesFb i := by
      rintro (hi | ⟨c, sl, al, hi⟩ | hi | hi)
      exacts [htk hi, hcell c sl al hi, hsr hi, hhr hi]
    by_cases hstore : storesVram i
    · exact exec_storesVram_fb h hstore
    · exact congrArg Prod.snd (exec_memories h htick hstore hfb)

end Sys2Proof.Machine
end

section
/-! PROOFS of the family `10_state`, the invariant: it holds at a launch, and every sub-step, tick and operation keeps
it (10_state R28, R39; 20_memory R76; 43_vdp_raster R242; 44_tape_codec R282, R292; 60_exceptions R348). -/
namespace Sys2Proof.Machine

/-! ### Keeping the invariant -/

/-- A state that agrees on what the invariant speaks of has it too. -/
theorem inv_congr {s t : State} (h : invPart t = invPart s) (hs : Inv s) : Inv t := by
  simp only [invPart, Prod.mk.injEq] at h
  obtain ⟨hconfig, hcfg, hir, ⟨hline, htick⟩, ⟨hvram, hfb⟩, ham, htape⟩ := h
  exact
    { config := hconfig ▸ hs.config, derived := by rw [hcfg, hir]; exact hs.derived, line := hline ▸ hs.line
      tick := by rw [htick, hconfig]; exact hs.tick, vramForm := hvram ▸ hs.vramForm, fbForm := hfb ▸ hs.fbForm
      vramRange := hvram ▸ hs.vramRange, fbRange := hfb ▸ hs.fbRange, fbColours := hfb ▸ hs.fbColours
      addressMode := ham ▸ hs.addressMode, tape := by rw [hconfig, htape]; exact hs.tape }

/-- The sub-step keeps the invariant. -/
def KeepsInv (f : State → State) : Prop := ∀ s, Inv s → Inv (f s)

theorem keepsInv_of_leaves {f : State → State} (hf : Leaves invPart f) : KeepsInv f := fun s => inv_congr (hf s)

theorem keepsInv_live {f : State → State} (hf : KeepsInv f) : KeepsInv (live f) := fun s hs => by
  rcases live_cases s f with ⟨-, he⟩ | ⟨-, he⟩ <;> rw [he]
  · exact hf s hs
  · exact hs

theorem keepsInv_onlyIf {f : State → State} (c : Bool) (hf : KeepsInv f) : KeepsInv (onlyIf c f) := fun s hs => by
  cases c
  · exact hs
  · exact hf s hs

theorem keepsInv_nil : KeepsInv (liveSeq []) := fun _ hs => hs

/-- A sequence of sub-steps keeps the invariant if its first one does and the rest does. -/
theorem keepsInv_cons {f : State → State} {fs : List (State → State)} (hf : KeepsInv f) (hfs : KeepsInv (liveSeq fs)) :
    KeepsInv (liveSeq (f :: fs)) := fun s hs => hfs _ (keepsInv_live hf s hs)

/-! ### Launch and reset -/

/-- A codec that is reset over an image of an allowed size meets its part of the invariant (44_tape_codec R274). -/
theorem codecReset_tapeInv {c : Config} {t : Tape} (h : t.image.length ≤ c.tapeMax) : TapeInv c (codecReset t) :=
  { size := h, reachable := ⟨nofun, nofun⟩, bits := Nat.zero_le _, waiting := fun _ => Nat.zero_le _
    reading := nofun, draining := nofun, finished := nofun }

/-- The two line lengths of an allowed configuration are not 0. -/
theorem lawful_ticksPerLine {c : Config} (hc : Lawful c) : 0 < max c.ticksPerLine312 c.ticksPerLine262 := by
  obtain ⟨⟨-, -, -, -, hhs, -⟩, -⟩ := hc
  omega

/-- A launch with an allowed configuration and a proper video RAM has the invariant. -/
theorem inv_launch {c : Config} {vram : Memory} (hc : Lawful c) (hform : vram.wf = true)
    (hrange : vram.within 0 8192 = true) : Inv (State.launch c vram) :=
  { config := hc, derived := derive_reset.symm, line := by simp [State.launch], tick := lawful_ticksPerLine hc
    vramForm := hform, fbForm := rfl, vramRange := hrange, fbRange := rfl, fbColours := rfl, addressMode := rfl
    tape := codecReset_tapeInv (t := tapeReset) (Nat.zero_le _) }

theorem keepsInv_resetFrom : KeepsInv resetFrom := fun s hs =>
  inv_congr (s := State.launch s.config s.vram) rfl (inv_launch hs.config hs.vramForm hs.vramRange)

/-- Without exceptions the transcoding is the reference one, which holds column and row apart (20_memory R72, R73). -/
theorem transcodeLaw_of_reference {c : Config} (hc : c.transcodeAt = []) : TranscodeLaw c := by
  intro blk col col' row row' _ _ h
  simp only [transcode, hc, lookupOr, transcodeRef] at h
  have hcol : col = col' := by simpa only [extract_low_append] using congrArg (BitVec.extractLsb' 0 6) h
  have hhigh : blk ++ row = blk ++ row' := by simpa only [extract_high_append] using congrArg (BitVec.extractLsb' 6 7) h
  exact ⟨hcol, by simpa only [extract_low_append] using congrArg (BitVec.extractLsb' 0 5) hhigh⟩

theorem configRef_lawful : Lawful configRef :=
  ⟨by unfold Config.Constraints; decide, transcodeLaw_of_reference rfl⟩

/-- Settles O7: the state after reset is a launch with the reference configuration and no video-RAM byte listed. -/
theorem resetMeetsTheInvariant : Obligations.ResetMeetsTheInvariant := inv_launch configRef_lawful rfl rfl

/-! ### Commands and the bus interface -/

theorem keepsInv_storeReg (p : Ptr) (j : BitVec 2) (k : BitVec 3) : KeepsInv (storeReg p j k) := fun s hs =>
  { hs with
      vramForm := Memory.wf_write _ _ _ hs.vramForm
      vramRange := Memory.within_write 0 8192 _ _ _ ⟨Nat.zero_le _, (ptrAddr s.config p j).isLt⟩ hs.vramRange }

theorem keepsInv_incMp (inc carry : Bool) : KeepsInv (incMp inc carry) := keepsInv_of_leaves (invPart_incMp inc carry)

theorem keepsInv_incAp (inc : Bool) : KeepsInv (incAp inc) := keepsInv_of_leaves (invPart_incAp inc)

theorem keepsInv_krfW (inc : Bool) : KeepsInv (krfW inc) := fun s hs =>
  have htwo := keepsInv_storeReg (mp s) 1 2 _ (keepsInv_storeReg (mp s) 0 1 s hs)
  keepsInv_incMp inc false _ (keepsInv_storeReg (mp s) 2 3 _ htwo)

theorem keepsInv_krgW (inc : Bool) : KeepsInv (krgW inc) := fun s hs =>
  keepsInv_incMp inc false _ (keepsInv_storeReg (mp s) 1 2 _ (keepsInv_storeReg (mp s) 0 1 s hs))

theorem keepsInv_octWMp (inc : Bool) : KeepsInv (octWMp inc) := fun s hs =>
  keepsInv_incMp inc true _ (keepsInv_storeReg (mp s) 0 1 s hs)

theorem keepsInv_octWAp (inc : Bool) : KeepsInv (octWAp inc) := fun s hs =>
  keepsInv_incAp inc _ (keepsInv_storeReg (ap s) 0 1 s hs)

/-- IND.W writes an indirect register and derives `cfg` again (10_state R28). -/
theorem keepsInv_indW (r : BitVec 3) : KeepsInv (indW r) := fun _ hs => { hs with derived := rfl }

theorem keepsInv_runGroup (g : CommandGroup) (c : Byte) : KeepsInv (runGroup g c) := fun s hs => by
  have hunimpl : Inv (unimpl c s) := inv_congr (s := s) rfl hs
  cases g <;> simp only [runGroup]
  case block =>
    split
    · exact hunimpl
    · split <;> split
      · exact keepsInv_of_leaves (invPart_krgR _) s hs
      · exact keepsInv_krgW _ s hs
      · exact keepsInv_of_leaves (invPart_krfR _) s hs
      · exact keepsInv_krfW _ s hs
  case octet =>
    split
    · exact hunimpl
    · split <;> split
      · exact keepsInv_of_leaves (invPart_octRAp _) s hs
      · exact keepsInv_of_leaves (invPart_octRMp _) s hs
      · exact keepsInv_octWAp _ s hs
      · exact keepsInv_octWMp _ s hs
  case indirect =>
    split
    · exact inv_congr (s := s) rfl hs
    · exact keepsInv_indW _ s hs
  case nextRow => exact inv_congr (s := s) rfl hs

theorem keepsInv_dispatch (c : Byte) : KeepsInv (dispatch c) := fun s hs => by
  rcases dispatch_cases s c with ⟨g, -, he⟩ | ⟨-, he⟩ | ⟨-, he⟩ <;> rw [he]
  · exact keepsInv_runGroup g c s hs
  · exact inv_congr (s := s) rfl hs
  · exact inv_congr (invPart_raise _ s) hs

theorem keepsInv_rwRise : KeepsInv rwRise := fun s hs => keepsInv_onlyIf _ (keepsInv_dispatch _) s hs

/-- The four edge tests and the edge detectors, in the order of 41_vdp_bus_interface R161. -/
theorem keepsInv_busStep : KeepsInv busStep :=
  have hasFall (ad : Byte) (ds : Level) : KeepsInv (asFall ad ds) := keepsInv_of_leaves fun _ => rfl
  have hdsFall (rw : Level) : KeepsInv (dsFall rw) := keepsInv_of_leaves (invPart_dsFall rw)
  have hrwFall (ad : Byte) : KeepsInv (rwFall ad) := keepsInv_of_leaves (invPart_rwFall ad)
  have hlatch : KeepsInv latchEdges := keepsInv_of_leaves fun _ => rfl
  keepsInv_cons (fun s => keepsInv_onlyIf _ (hasFall _ _) s) <|
  keepsInv_cons (fun s => keepsInv_onlyIf _ (hdsFall _) s) <|
  keepsInv_cons (fun s => keepsInv_onlyIf _ (hrwFall _) s) <|
  keepsInv_cons (fun s => keepsInv_onlyIf _ keepsInv_rwRise s) <|
  keepsInv_cons hlatch keepsInv_nil

/-! ### Raster -/

/-- A pixel of lines 10 to 249 lies in the active window and has one of the eight colours. -/
theorem keepsInv_fbWrite {x y : Nat} (colour : BitVec 3) (hx : x < 320) (hy : 10 ≤ y ∧ y < 250) :
    KeepsInv (fbWrite x y colour) := fun s hs => by
  have haddr : 3200 ≤ y * fbWidth + x ∧ y * fbWidth + x < 80000 := by simp only [fbWidth]; omega
  have hcolour : (colour.setWidth 8).toNat < 8 := by
    rw [BitVec.toNat_setWidth]; exact lt_of_le_of_lt (Nat.mod_le _ _) colour.isLt
  exact
    { hs with
        fbForm := fbWrite_wf s x y colour hs.fbForm
        fbRange := Memory.within_write _ _ _ _ _ haddr hs.fbRange
        fbColours := Memory.all_write _ _ _ _ (decide_eq_true hcolour) hs.fbColours }

theorem keepsInv_writePixels {x al : Nat} (colour : Nat → BitVec 3) (n : Nat) (hx : x + n ≤ 320)
    (hal : 10 ≤ al ∧ al < 250) : KeepsInv (writePixels x al colour n) := by
  induction n with
  | zero => exact fun _ hs => hs
  | succ n ih => exact fun s hs => keepsInv_fbWrite _ (by omega) hal _ (ih (by omega) s hs)

theorem keepsInv_renderCell {c al : Nat} (sl : Nat) (hc : c < 40) (hal : 10 ≤ al ∧ al < 250) :
    KeepsInv (renderCell c sl al) := fun s hs => keepsInv_writePixels _ 8 (by omega) hal s hs

/-- The column of a starting cell, and where the cell starts (43_vdp_raster R220). -/
theorem startingCell_some {c : Config} {tick col : Nat} (h : startingCell c tick = some col) :
    col < 40 ∧ tick = c.hActiveStart + col * c.ticksPerCell := by
  simp only [startingCell, Option.ite_none_right_eq_some, Option.some.injEq] at h
  obtain ⟨⟨hle, hmod, hlt⟩, rfl⟩ := h
  have hmul := Nat.div_mul_cancel (Nat.dvd_of_mod_eq_zero hmod)
  exact ⟨hlt, by omega⟩

/-- The active line of a raster position (43_vdp_raster R220, R221). -/
theorem activeLine_some {s : State} {al : Nat} (h : activeLine s = some al) :
    al < 250 ∧ s.line = s.config.vActiveStart + al := by
  simp only [activeLine, Option.ite_none_right_eq_some, Option.some.injEq] at h
  omega

/-- What a raster step does at its position: nothing, the service row at the first tick of the active window, or the
parts of a text line (43_vdp_raster R220). -/
theorem rasterAct_cases (s : State) :
    rasterAct s = s ∨
    (s.line = s.config.vActiveStart ∧ s.tickInLine = 0 ∧ rasterAct s = serviceRow s) ∨
    ∃ al, 10 ≤ al ∧ al < 250 ∧ s.line = s.config.vActiveStart + al ∧
      rasterAct s = liveSeq [reloadStep (al / 10) (al % 10), cellStep (al % 10) al] s := by
  simp only [rasterAct]
  split
  · exact .inl rfl
  · next al hal =>
    obtain ⟨hlt, hline⟩ := activeLine_some hal
    split
    · cases hfirst : (al % 10 == 0 && s.tickInLine == 0) with
      | false => exact .inl rfl
      | true =>
        simp only [Bool.and_eq_true, beq_iff_eq] at hfirst
        exact .inr (.inl ⟨by omega, hfirst.2, rfl⟩)
    · exact .inr (.inr ⟨al, by omega, hlt, hline, rfl⟩)

theorem keepsInv_reloadStep (k sl : Nat) : KeepsInv (reloadStep k sl) := fun s =>
  have hreload : KeepsInv (rowReload k) := keepsInv_of_leaves (invPart_rowReload k)
  have hquad : KeepsInv quadrantPass := keepsInv_of_leaves fun _ => rfl
  keepsInv_onlyIf _ (keepsInv_cons hreload (keepsInv_cons hquad keepsInv_nil)) s

theorem keepsInv_cellStep {al : Nat} (sl : Nat) (hal : 10 ≤ al ∧ al < 250) : KeepsInv (cellStep sl al) := fun s hs => by
  simp only [cellStep]
  split
  · next c hc => exact keepsInv_renderCell sl (startingCell_some hc).1 hal s hs
  · exact hs

theorem keepsInv_rasterAct : KeepsInv rasterAct := fun s hs => by
  rcases rasterAct_cases s with he | ⟨-, -, he⟩ | ⟨al, h10, h250, -, he⟩ <;> rw [he]
  · exact hs
  · exact inv_congr (s := s) rfl hs
  · exact keepsInv_cons (keepsInv_reloadStep _ _) (keepsInv_cons (keepsInv_cellStep _ ⟨h10, h250⟩) keepsInv_nil) s hs

/-- The position stays below the frame's lines and the line's ticks (60_exceptions R348). -/
theorem keepsInv_advance : KeepsInv advance := fun s hs => by
  have hlines : s.cfg.linesPerFrame = 262 ∨ s.cfg.linesPerFrame = 312 := hs.derived ▸ derive_lines s.ir
  have hline := hs.line
  have hmax : ticksPerLine s.config s.cfg.linesPerFrame ≤ max s.config.ticksPerLine312 s.config.ticksPerLine262 := by
    simp only [ticksPerLine]; split <;> omega
  simp only [advance]
  split
  · exact { hs with line := by dsimp only; split <;> omega, tick := lawful_ticksPerLine hs.config }
  · exact { hs with tick := by dsimp only; omega }

theorem keepsInv_rasterStep : KeepsInv rasterStep :=
  have hsync : KeepsInv syncOut := keepsInv_of_leaves fun _ => rfl
  keepsInv_cons keepsInv_rasterAct (keepsInv_cons hsync (keepsInv_cons keepsInv_advance keepsInv_nil))

/-! ### Codec -/

/-- The codec holds at most one sample it has not looked at yet: what a tape that meets `TapeInv` becomes by a push, and
what a pulse operation starts from (44_tape_codec R281, R282). -/
structure PulseReady (c : Config) (t : Tape) : Prop where
  size : t.image.length ≤ c.tapeMax
  reachable : t.state ≠ .awaitSync2 ∧ t.state ≠ .payload
  bits : t.bitCount ≤ 8
  waiting : t.state = .awaitSync1 → t.ring.length ≤ 2
  reading : t.state = .headerBits →
    t.ring.length ≤ 4 ∧ (frontLongPair c t.ring = true → t.ring.length = 2) ∧ t.bitCount < 8
  draining : t.state = .error → t.ring.length ≤ 5 ∧ t.drained < c.errorDrainN
  finished : t.state = .finished → t.ring.length ≤ 4

section
variable {c : Config} {t : Tape}

theorem pulseReady_of_tapeInv (h : TapeInv c t) : PulseReady c t :=
  { size := h.size, reachable := h.reachable, bits := h.bits
    waiting := fun hst => (h.waiting hst).trans (by omega)
    reading := fun hst => by
      obtain ⟨hlen, hpair, hbits⟩ := h.reading hst
      exact ⟨hlen.trans (by omega), by simp [hpair], hbits⟩
    draining := fun hst => by
      obtain ⟨hlen, hdrained⟩ := h.draining hst
      exact ⟨hlen.trans (by omega), hdrained⟩
    finished := h.finished }

/-- A pulse after two or more makes no new pair at the front. -/
theorem frontLongPair_push {ring : List Nat} (d : Nat) (h : frontLongPair c ring = false) :
    frontLongPair c (ring ++ [d]) = true → (ring ++ [d]).length = 2 := by
  match ring with
  | [] => simp [frontLongPair]
  | [a] => simp
  | a :: b :: rest => simp_all [frontLongPair]

/-- No state in which a sample is pushed fills the ring. -/
theorem push_pulseReady (d : Nat) (hring : 5 ≤ c.ringCap) (h : TapeInv c t) (hst : pushesSample t.state = true) :
    PulseReady c (push c d t) := by
  have hlen : t.ring.length ≤ 4 := by
    cases hs : t.state with
    | awaitSync1 => exact (h.waiting hs).trans (by omega)
    | headerBits => exact (h.reading hs).1.trans (by omega)
    | error => exact (h.draining hs).1
    | awaitSync2 | payload | finished => simp [hs, pushesSample] at hst
  have hpush : push c d t = { t with ring := t.ring ++ [d] } := by rw [push, if_neg (by omega)]
  rw [hpush]
  exact
    { size := h.size, reachable := h.reachable, bits := h.bits
      waiting := fun hs => by simpa using h.waiting hs
      reading := fun hs => by
        obtain ⟨hlen, hpair, hbits⟩ := h.reading hs
        exact ⟨by simpa using Nat.lt_succ_of_le hlen, frontLongPair_push d hpair, hbits⟩
      draining := fun hs => by
        obtain ⟨hlen, hdrained⟩ := h.draining hs
        exact ⟨by simpa using Nat.lt_succ_of_le hlen, hdrained⟩
      finished := fun hs => by
        have hs' : t.state = .finished := hs
        simp [hs', pushesSample] at hst }

/-- A search of at most two pulses leaves none after a synchro, and at most one without. -/
theorem stepSync_tapeInv (h : PulseReady c t) (hst : t.state = .awaitSync1) : TapeInv c (stepSync c t) := by
  have hlen := h.waiting hst
  rcases syncSearch_cases c t.ring with ⟨pre, a, b, rest, hring, -, -, -, hfound⟩ | ⟨-, hfound⟩
  · have hrest : rest = [] := by
      rw [hring] at hlen
      simp only [List.length_append, List.length_cons] at hlen
      exact List.eq_nil_of_length_eq_zero (by omega)
    simp only [stepSync, hfound, hrest, if_true]
    exact
      { size := h.size, reachable := ⟨nofun, nofun⟩, bits := Nat.zero_le _, waiting := nofun
        reading := fun _ => ⟨Nat.zero_le _, rfl, by simp⟩, draining := nofun, finished := nofun }
  · simp only [stepSync, hfound, Bool.false_eq_true, if_false]
    exact
      { size := h.size, reachable := h.reachable, bits := h.bits
        waiting := fun _ => by simp only [List.length_drop]; omega
        reading := fun hs => by simp [hst] at hs
        draining := fun hs => by simp [hst] at hs
        finished := fun hs => by simp [hst] at hs }

/-- A bit assembled from all the pulses of the ring leaves an empty ring in front of the next bit or synchro. -/
theorem addBit_tapeInv (b : Bool) (k : Nat) (h : PulseReady c t) (hst : t.state = .headerBits)
    (hk : t.ring.length = k) : TapeInv c (addBit b (shift k t)) := by
  obtain ⟨-, -, hbits⟩ := h.reading hst
  have hempty : (shift k t).ring = [] := List.drop_eq_nil_of_le hk.le
  simp only [addBit]
  split
  · exact
      { size := h.size, reachable := ⟨nofun, nofun⟩, bits := le_rfl, waiting := fun _ => by simp [hempty]
        reading := nofun, draining := nofun, finished := nofun }
  · next hmore =>
    have hst' : (shift k t).state = .headerBits := hst
    have hcount : (shift k t).bitCount = t.bitCount := rfl
    exact
      { size := h.size, reachable := h.reachable, bits := by dsimp only; omega
        waiting := fun hs => by simp [hst'] at hs
        reading := fun _ => ⟨by simp [hempty], by simp [hempty, frontLongPair], by dsimp only; omega⟩
        draining := fun hs => by simp [hst'] at hs
        finished := fun hs => by simp [hst'] at hs }

/-- A drained pulse leaves room for the next one, until the count is reached (44_tape_codec R290). -/
theorem drainOne_tapeInv (h : PulseReady c t) (hst : t.state = .error) : TapeInv c (drainOne c t) := by
  obtain ⟨hlen, -⟩ := h.draining hst
  have hring : (t.ring.drop 1).length ≤ 4 := by rw [List.length_drop]; omega
  simp only [drainOne, hst]
  split
  · exact
      { size := h.size, reachable := ⟨nofun, nofun⟩, bits := h.bits, waiting := nofun, reading := nofun
        draining := nofun, finished := fun _ => hring }
  · next hmore =>
    exact
      { size := h.size, reachable := ⟨nofun, nofun⟩, bits := h.bits, waiting := nofun, reading := nofun
        draining := fun _ => ⟨hring, not_le.1 hmore⟩, finished := nofun }

end

/-- While a byte is read, a bit or an error is selected only on the pulses that make it, so the ring holds no more
(44_tape_codec R287). -/
theorem selectPulse_header {c : Config} {t : Tape} (hst : t.state = .headerBits) (h : PulseReady c t) :
    (selectPulse c t = .bit0 ∧ t.ring.length = 2) ∨ (selectPulse c t = .bit1 ∧ t.ring.length = 4) ∨
    (selectPulse c t = .err ∧ t.ring.length = 4) ∨
    (selectPulse c t = .wait ∧ t.ring.length ≤ 3 ∧ frontLongPair c t.ring = false) := by
  obtain ⟨hlen, hpair, -⟩ := h.reading hst
  have hfour : frontFourShort c t.ring = true → 4 ≤ t.ring.length := fun hf => by
    unfold frontFourShort at hf
    split at hf
    · next hr => simp [hr]
    · cases hf
  simp only [selectPulse, hst]
  split
  · next hp => exact .inl ⟨rfl, hpair hp⟩
  · next hp =>
    split
    · next hf => exact .inr (.inl ⟨rfl, le_antisymm hlen (hfour hf)⟩)
    · split
      · exact .inr (.inr (.inl ⟨rfl, by omega⟩))
      · exact .inr (.inr (.inr ⟨rfl, by omega, by simpa using hp⟩))

/-- What the codec does with its ring leaves at most what the next sample may find (44_tape_codec R281, R286 to R290).
-/
theorem runPulse_tapeInv {s : State} (hn : 1 ≤ s.config.errorDrainN) (h : PulseReady s.config s.tape) :
    TapeInv s.config (runPulse s).tape := by
  cases hst : s.tape.state with
  | awaitSync1 =>
    have hrun : runPulse s = pulseSync s := by simp only [runPulse, selectPulse, hst]
    rw [hrun]; exact stepSync_tapeInv h hst
  | headerBits =>
    rcases selectPulse_header hst h with ⟨hop, hlen⟩ | ⟨hop, hlen⟩ | ⟨hop, hlen⟩ | ⟨hop, hlen, hpair⟩
    · have hrun : runPulse s = pulseBit0 s := by simp only [runPulse, hop]
      rw [hrun]; exact addBit_tapeInv false 2 h hst hlen
    · have hrun : runPulse s = pulseBit1 s := by simp only [runPulse, hop]
      rw [hrun]; exact addBit_tapeInv true 4 h hst hlen
    · have hrun : runPulse s = pulseErr s := by simp only [runPulse, hop]
      rw [hrun]
      exact
        { size := h.size, reachable := ⟨nofun, nofun⟩, bits := h.bits, waiting := nofun, reading := nofun
          draining := fun _ => ⟨hlen.le, hn⟩, finished := nofun }
    · have hrun : runPulse s = s := by simp only [runPulse, hop]
      obtain ⟨-, -, hbits⟩ := h.reading hst
      rw [hrun]
      exact
        { size := h.size, reachable := h.reachable, bits := h.bits, waiting := by simp [hst]
          reading := fun _ => ⟨hlen, hpair, hbits⟩, draining := by simp [hst], finished := by simp [hst] }
  | error =>
    obtain ⟨hlen, hdrained⟩ := h.draining hst
    by_cases hring : s.tape.ring = []
    · have hrun : runPulse s = s := by simp [runPulse, selectPulse, hst, hring]
      rw [hrun]
      exact
        { size := h.size, reachable := h.reachable, bits := h.bits, waiting := by simp [hst]
          reading := by simp [hst], draining := fun _ => ⟨by simp [hring], hdrained⟩, finished := by simp [hst] }
    · have hrun : runPulse s = pulseDrain s := by simp [runPulse, selectPulse, hst, hring]
      rw [hrun]
      exact drainOne_tapeInv h hst
  | awaitSync2 => exact absurd hst h.reachable.1
  | payload => exact absurd hst h.reachable.2
  | finished =>
    have hrun : runPulse s = s := by simp only [runPulse, selectPulse, hst]
    rw [hrun]
    exact
      { size := h.size, reachable := h.reachable, bits := h.bits, waiting := by simp [hst], reading := by simp [hst]
        draining := by simp [hst], finished := h.finished }

/-- A state that differs in the tape, the log and the fault mark has the invariant if its tape meets the codec's part.
-/
theorem inv_of_restoreTape {s t : State} (hs : Inv s) (h : restoreTape s t = s) (ht : TapeInv s.config t.tape) :
    Inv t := by
  have hpart : invPart t = invPart { restoreTape s t with tape := t.tape } := rfl
  rw [h] at hpart
  exact inv_congr hpart { hs with tape := ht }

/-- An allowed configuration has a ring for five samples and drains at least one pulse. -/
theorem lawful_codec {c : Config} (hc : Lawful c) : 5 ≤ c.ringCap ∧ 1 ≤ c.errorDrainN := by
  obtain ⟨⟨-, -, -, -, -, -, -, -, -, -, -, -, -, -, hring, -, -, -, -, hdrain⟩, -⟩ := hc
  exact ⟨hring, hdrain⟩

theorem keepsInv_runPulse : KeepsInv runPulse := fun s hs =>
  inv_of_restoreTape hs (runPulse_restore s)
    (runPulse_tapeInv (lawful_codec hs.config).2 (pulseReady_of_tapeInv hs.tape))

/-- A pulse operation asked for by itself is the one the codec selects, or does nothing (log entry 11). -/
theorem keepsInv_ifSelected {op : PulseOp} {f : State → State}
    (hf : ∀ s, selectPulse s.config s.tape = op → f s = runPulse s) : KeepsInv (ifSelected op f) := fun s hs => by
  simp only [ifSelected, onlyIf]
  split
  · next hop =>
    rw [hf s (eq_of_beq hop)]
    exact keepsInv_runPulse s hs
  · exact hs

theorem keepsInv_toggle (d : Nat) : KeepsInv (toggle d) := fun s hs => by
  obtain ⟨hring, hdrain⟩ := lawful_codec hs.config
  refine inv_of_restoreTape hs (toggle_restore s d) ?_
  simp only [toggle]
  cases hst : pushesSample s.tape.state with
  | false => exact runPulse_tapeInv hdrain (pulseReady_of_tapeInv hs.tape)
  | true => exact runPulse_tapeInv (s := onTape (push s.config d) s) hdrain (push_pulseReady d hring hs.tape hst)

theorem keepsInv_tapeTick (w : Level) (d : Byte) : KeepsInv (tapeTick w d) := fun s hs => by
  have hcount : Inv (countAndLatch w d s) := { hs with tape := { hs.tape with } }
  have hrestart : KeepsInv restartMeasure := fun _ ht => { ht with tape := { ht.tape with } }
  exact keepsInv_onlyIf _ (keepsInv_cons (keepsInv_toggle _) (keepsInv_cons hrestart keepsInv_nil)) _ hcount

/-- An insert of an image that the configuration allows; a failing one records its reason only (44_tape_codec R270). -/
theorem inv_insert {image : List Byte} {s : State} (hlen : image.length ≤ s.config.tapeMax) (hs : Inv s) :
    Inv (insert image s) := by
  simp only [insert]
  split
  · exact { hs with tape := codecReset_tapeInv hlen }
  · exact { hs with tape := { hs.tape with } }

theorem keepsInv_eject : KeepsInv eject := fun _ hs => { hs with tape := codecReset_tapeInv (Nat.zero_le _) }

/-! ### Ticks -/

theorem keepsInv_returnPins : KeepsInv returnPins := fun _ hs => { hs with addressMode := rfl }

theorem keepsInv_vdpTick : KeepsInv vdpTick :=
  keepsInv_cons keepsInv_busStep (keepsInv_cons keepsInv_rasterStep (keepsInv_cons keepsInv_returnPins keepsInv_nil))

theorem keepsInv_vdpTicks (n : Nat) : KeepsInv (vdpTicks n) := by
  induction n with
  | zero => exact fun _ hs => hs
  | succ n ih => exact fun s hs => ih _ (keepsInv_live keepsInv_vdpTick s hs)

theorem invPart_serveMemory : Leaves invPart serveMemory := fun s => by
  simp only [serveMemory, dropMemAnswer]
  split
  · split <;> rfl
  · rfl

theorem invPart_foldVdp : Leaves invPart foldVdp := fun s => by
  simp only [foldVdp]; split <;> rfl

theorem invPart_foldKeyboard : Leaves invPart foldKeyboard := fun s => by
  simp only [foldKeyboard, dropKeyAnswer]
  split
  · rfl
  · split <;> rfl

theorem invPart_checkTapeRead : Leaves invPart checkTapeRead := fun s => by
  simp only [checkTapeRead]
  split
  · rfl
  · exact invPart_raise _ s

theorem keepsInv_drivePins : KeepsInv drivePins := fun _ hs => { hs with addressMode := rfl }

/-- The eleven steps of a system tick, in the order of 45_system_tick R311. -/
theorem keepsInv_sysTickWith (p : CpuPins) : KeepsInv (sysTickWith p) :=
  have htake : KeepsInv (takeCpu p) := keepsInv_of_leaves fun _ => rfl
  have hdecode : KeepsInv decodeBus := keepsInv_of_leaves fun _ => rfl
  have hints : KeepsInv driveInterrupts := keepsInv_of_leaves fun _ => rfl
  have hcommit : KeepsInv commitTick := keepsInv_of_leaves fun _ => rfl
  keepsInv_cons htake <|
  keepsInv_cons (keepsInv_of_leaves invPart_serveMemory) <|
  keepsInv_cons hdecode <|
  keepsInv_cons keepsInv_drivePins <|
  keepsInv_cons (fun s => keepsInv_vdpTicks s.config.ratio s) <|
  keepsInv_cons (keepsInv_of_leaves invPart_foldVdp) <|
  keepsInv_cons (keepsInv_of_leaves invPart_foldKeyboard) <|
  keepsInv_cons (keepsInv_of_leaves invPart_checkTapeRead) <|
  keepsInv_cons (fun s => keepsInv_tapeTick s.bus.tapeWr s.cpu.d s) <|
  keepsInv_cons hints <|
  keepsInv_cons hcommit keepsInv_nil

theorem invPart_dropCpuAnswer : Leaves invPart dropCpuAnswer := fun s => by
  simp only [dropCpuAnswer]; split <;> rfl

theorem keepsInv_sysTick : KeepsInv sysTick :=
  keepsInv_live fun s hs => keepsInv_sysTickWith _ _ (inv_congr (invPart_dropCpuAnswer s) hs)

theorem keepsInv_outTick (port v : Byte) : KeepsInv (outTick port v) := keepsInv_live fun _ => keepsInv_sysTickWith _ _

theorem keepsInv_inTick (port : Byte) : KeepsInv (inTick port) := keepsInv_live fun _ => keepsInv_sysTickWith _ _

theorem keepsInv_idleTick : KeepsInv idleTick :=
  keepsInv_live fun s hs => keepsInv_sysTickWith _ _ (inv_congr (s := s) rfl hs)

theorem keepsInv_repeatTick {f : State → State} (hf : KeepsInv f) (n : Nat) : KeepsInv (repeatTick f n) := by
  induction n with
  | zero => exact fun _ hs => hs
  | succ n ih => exact fun s hs => ih _ (hf s hs)

/-! ### Bus scripts and runs -/

theorem keepsInv_busIdle (k : Nat) : KeepsInv (busIdle k) := keepsInv_repeatTick keepsInv_idleTick k

theorem keepsInv_busOut (port v : Byte) (t : BusTiming) : KeepsInv (busOut port v t) := fun s hs =>
  keepsInv_busIdle t.idle _ (keepsInv_repeatTick (keepsInv_outTick port v) t.strobe s hs)

theorem keepsInv_busIn (port : Byte) (t : BusTiming) : KeepsInv (busIn port t) := fun s hs =>
  have hread : KeepsInv (live takeRead) := keepsInv_live (keepsInv_of_leaves fun _ => rfl)
  keepsInv_busIdle t.idle _
    (keepsInv_repeatTick (keepsInv_inTick port) (t.strobe - 1) _ (hread _ (keepsInv_inTick port s hs)))

theorem keepsInv_writeReg (n : BitVec 3) (v : Byte) (t1 t2 : BusTiming) : KeepsInv (writeReg n v t1 t2) := fun s hs =>
  keepsInv_busOut _ v t2 _ (keepsInv_busOut _ (addrByte n) t1 s hs)

theorem keepsInv_writeRegX (n : BitVec 3) (v : Byte) (t1 t2 : BusTiming) : KeepsInv (writeRegX n v t1 t2) := fun s hs =>
  keepsInv_busOut _ v t2 _ (keepsInv_busOut _ (addrByteX n) t1 s hs)

theorem keepsInv_readReg (n : BitVec 3) (t1 t2 : BusTiming) : KeepsInv (readReg n t1 t2) := fun s hs =>
  keepsInv_busIn _ t2 _ (keepsInv_busOut _ (addrByte n) t1 s hs)

theorem invPart_askHook : Leaves invPart askHook := 
  leaves_of_frame (restore := fun s t => { t with stopFlag := s.stopFlag, outside := s.outside }) askHook_frame
    fun _ _ => rfl

theorem keepsInv_runLoop (n : Nat) : KeepsInv (runLoop n) := by
  induction n with
  | zero => exact fun _ hs => hs
  | succ n ih =>
    intro s hs
    simp only [runLoop]
    split
    · exact hs
    · have hhook : Inv (askHook (sysTick s)) := inv_congr (invPart_askHook _) (keepsInv_sysTick s hs)
      exact ih _ (inv_congr (s := askHook (sysTick s)) rfl hhook)

theorem keepsInv_run (n : Nat) : KeepsInv (run n) := fun s hs => by
  have hloop : Inv (runLoop n { s with tickCount := 0 }) := keepsInv_runLoop n _ (inv_congr (s := s) rfl hs)
  exact inv_congr (s := runLoop n { s with tickCount := 0 }) rfl hloop

/-! ### Operations and steps -/

section
variable {i : Instr} {s t : State}

theorem inv_of_next {f : State → State} (h : (.next (f s) : Result) = .next t) (hf : KeepsInv f)
    (hs : Inv s) : Inv t := by
  cases h; exact hf s hs

theorem inv_of_next_live {f : State → State} (h : (.next (live f s) : Result) = .next t) (hf : KeepsInv f)
    (hs : Inv s) : Inv t := inv_of_next h (keepsInv_live hf) hs

theorem exec_ticksBlock_inv (h : exec i s = .next t) (hi : ticksBlock i) (hs : Inv s) : Inv t := by
  rcases hi with rfl | ⟨n, rfl⟩ | ⟨port, v, u, rfl⟩ | ⟨port, u, rfl⟩ | ⟨k, rfl⟩ | ⟨n, v, t1, t2, rfl | rfl⟩ |
    ⟨n, t1, t2, rfl⟩ | ⟨c, t1, t2, rfl⟩ | ⟨b, u, rfl⟩
  · exact inv_of_next h keepsInv_sysTick hs
  · exact inv_of_next h (keepsInv_run n) hs
  · obtain ⟨-, rfl⟩ := guarded_next h; exact keepsInv_busOut port v u s hs
  · obtain ⟨-, rfl⟩ := guarded_next h; exact keepsInv_busIn port u s hs
  · exact inv_of_next h (keepsInv_busIdle k) hs
  · obtain ⟨-, rfl⟩ := guarded_next h; exact keepsInv_writeReg n v t1 t2 s hs
  · obtain ⟨-, rfl⟩ := guarded_next h; exact keepsInv_writeRegX n v t1 t2 s hs
  · obtain ⟨-, rfl⟩ := guarded_next h; exact keepsInv_readReg n t1 t2 s hs
  · obtain ⟨-, rfl⟩ := guarded_next h; exact keepsInv_writeRegX 0 c t1 t2 s hs
  · obtain ⟨-, rfl⟩ := guarded_next h; exact keepsInv_busOut _ b u s hs

theorem exec_storesVram_inv (h : exec i s = .next t) (hi : storesVram i) (hs : Inv s) : Inv t := by
  rcases hi with ⟨inc, rfl | rfl | rfl | rfl⟩ | rfl
  · exact inv_of_next_live h (keepsInv_krfW inc) hs
  · exact inv_of_next_live h (keepsInv_krgW inc) hs
  · exact inv_of_next_live h (keepsInv_octWMp inc) hs
  · exact inv_of_next_live h (keepsInv_octWAp inc) hs
  · exact inv_of_next_live h keepsInv_rwRise hs

theorem exec_writesFb_inv (h : exec i s = .next t) (hi : writesFb i) (hs : Inv s) : Inv t := by
  rcases hi with rfl | ⟨c, sl, al, rfl⟩ | rfl | rfl
  · exact inv_of_next_live h keepsInv_rasterStep hs
  · obtain ⟨hwindow, rfl⟩ := guarded_next h
    simp only [cellInWindow, Bool.and_eq_true, decide_eq_true_eq] at hwindow
    obtain ⟨⟨⟨hc, -⟩, h10⟩, h250⟩ := hwindow
    exact keepsInv_live (keepsInv_renderCell sl hc ⟨h10, h250⟩) s hs
  · exact inv_of_next h keepsInv_resetFrom hs
  · exact inv_of_next h keepsInv_resetFrom hs

theorem exec_runsCodec_inv (h : exec i s = .next t) (hi : runsCodec i) (hs : Inv s) : Inv t := by
  rcases hi with ⟨image, rfl | rfl⟩ | (rfl | rfl) | ⟨svc, d, rfl⟩ | rfl | rfl | rfl | rfl | rfl
  · obtain ⟨hlen, rfl⟩ := guarded_next h; exact inv_insert hlen hs
  · obtain ⟨hlen, rfl⟩ := guarded_next h; exact inv_insert hlen hs
  · exact inv_of_next h keepsInv_eject hs
  · exact inv_of_next h keepsInv_eject hs
  · exact inv_of_next_live h (keepsInv_tapeTick _ d) hs
  all_goals exact inv_of_next_live h (keepsInv_ifSelected fun s hop => by simp only [runPulse, hop]) hs

/-- Every operation keeps the invariant. -/
theorem exec_inv (h : exec i s = .next t) (hs : Inv s) : Inv t := by
  by_cases hi : movesInvPart i
  · rcases hi with hi | hi | hi | hi | ⟨r, rfl⟩ | rfl
    · exact exec_ticksBlock_inv h hi hs
    · exact exec_storesVram_inv h hi hs
    · exact exec_writesFb_inv h hi hs
    · exact exec_runsCodec_inv h hi hs
    · exact inv_of_next_live h (keepsInv_indW r) hs
    · exact inv_of_next_live h keepsInv_advance hs
  · exact inv_congr (exec_invPart h hi) hs

end

/-- Settles O6: the host's turn and the taking of a word leave what the invariant speaks of, and the operation that runs
keeps the invariant. -/
theorem everyStepKeepsTheInvariant : Obligations.EveryStepKeepsTheInvariant := by
  intro s t hs h
  have hturn : Inv (hostTurn s) := inv_congr (s := s) rfl hs
  simp only [step, runNext] at h
  split at h
  · exact exec_inv h hturn
  · split at h
    · exact exec_inv h (inv_congr (s := hostTurn s) rfl hturn)
    · cases h

end Sys2Proof.Machine
end

section
/-! PROOFS of the family `10_state`, what a raster tick writes (10_state R31, 43_vdp_raster R226, R242, R243). In an
accepted mode nothing faults, so the tick is its position's act, then sync, then advance; the act is taken apart by
position. -/
namespace Sys2Proof.Machine

/-! ### Cells -/

/-- Pixels leave every byte outside their run as it was, in any framebuffer. -/
theorem writePixels_read_other {x al i : Nat} (n : Nat) (colour : Nat → BitVec 3) (s : State)
    (hi : i < al * fbWidth + x ∨ al * fbWidth + x + n ≤ i) :
    fbRead (writePixels x al colour n s) i = fbRead s i := by
  induction n with
  | zero => rfl
  | succ n ih => exact (Memory.read_write_other _ _ _ _ (by omega)).trans (ih (by omega))

/-- A cell render changes the framebuffer only. -/
theorem cellStep_eq (sl al : Nat) (s : State) : ∃ m, cellStep sl al s = { s with fb := m } := by
  simp only [cellStep]
  split
  · next c _ =>
    have hself : renderCell c sl al s =
        { ({ renderCell c sl al s with fb := s.fb } : State) with fb := (renderCell c sl al s).fb } := rfl
    rw [renderCell_frame] at hself
    exact ⟨_, hself⟩
  · exact ⟨s.fb, rfl⟩

/-- A byte that the cell step changes lies in the cell that starts at this tick. -/
theorem cellStep_fbRead {sl al i : Nat} {s : State} (h : fbRead (cellStep sl al s) i ≠ fbRead s i) :
    ∃ c < 40, s.tickInLine = s.config.hActiveStart + c * s.config.ticksPerCell ∧
      al * 320 + c * 8 ≤ i ∧ i < al * 320 + c * 8 + 8 := by
  simp only [cellStep] at h
  split at h
  · next c hc =>
    obtain ⟨hlt, htick⟩ := startingCell_some hc
    have hin : ¬ (i < al * fbWidth + c * 8 ∨ al * fbWidth + c * 8 + 8 ≤ i) := fun hout =>
      h (writePixels_read_other 8 _ s hout)
    simp only [fbWidth] at hin
    exact ⟨c, hlt, htick, by omega, by omega⟩
  · exact absurd rfl h

/-! ### The act of a position -/

section
variable {s : State}

/-- The row reload and quadrant pass of a text row happen at the first tick of its first line, and raise no fault. -/
theorem reloadStep_accepted (hf : s.fault = none) (hm : ModeAccepted s) (k sl : Nat) :
    reloadStep k sl s = s ∨ (sl = 0 ∧ s.tickInLine = 0 ∧ reloadStep k sl s = quadrantPass (loadRow k s)) := by
  cases hfirst : (sl == 0 && s.tickInLine == 0) with
  | false => exact .inl (by rw [reloadStep, hfirst, onlyIf_false])
  | true =>
    have hrun : reloadStep k sl s = quadrantPass (loadRow k s) := by
      rw [reloadStep, hfirst, onlyIf_true, liveSeq_cons, liveSeq_cons, liveSeq_nil, live_of_running s _ hf,
        rowReload_accepted s k hm, live_of_running (loadRow k s) _ hf]
    simp only [Bool.and_eq_true, beq_iff_eq] at hfirst
    exact .inr ⟨hfirst.1, hfirst.2, hrun⟩

/-- The act of a position in an accepted mode: nothing, the service row, or, on a text line, the reload of its row if it
is due and then the cell that starts. -/
theorem rasterAct_accepted (hf : s.fault = none) (hm : ModeAccepted s) :
    rasterAct s = s ∨
    (s.line = s.config.vActiveStart ∧ s.tickInLine = 0 ∧ rasterAct s = serviceRow s) ∨
    ∃ al u, 10 ≤ al ∧ al < 250 ∧ s.line = s.config.vActiveStart + al ∧
      (u = s ∨ al % 10 = 0 ∧ s.tickInLine = 0 ∧ u = quadrantPass (loadRow (al / 10) s)) ∧
      rasterAct s = cellStep (al % 10) al u := by
  rcases rasterAct_cases s with he | hservice | ⟨al, h10, h250, hline, he⟩
  · exact .inl he
  · exact .inr (.inl hservice)
  · have hreload := reloadStep_accepted hf hm (al / 10) (al % 10)
    have hfault : (reloadStep (al / 10) (al % 10) s).fault = none := by
      rcases hreload with hu | ⟨-, -, hu⟩ <;> rw [hu] <;> exact hf
    refine .inr (.inr ⟨al, reloadStep (al / 10) (al % 10) s, h10, h250, hline, hreload, ?_⟩)
    rw [he, liveSeq_cons, liveSeq_cons, liveSeq_nil, live_of_running s _ hf, live_of_running _ _ hfault]

/-- The act changes the row buffer, the quadrants and the framebuffer only. -/
theorem rasterAct_eq (hf : s.fault = none) (hm : ModeAccepted s) :
    ∃ b y q m, rasterAct s = { s with rowbuf := b, rowY := y, quad := q, fb := m } := by
  rcases rasterAct_accepted hf hm with he | ⟨-, -, he⟩ | ⟨al, u, -, -, -, hu, he⟩
  · exact ⟨s.rowbuf, s.rowY, s.quad, s.fb, he⟩
  · exact ⟨s.rowbuf, s.rowY, Vector.replicate 40 .none, s.fb, he⟩
  · obtain ⟨m, hcell⟩ := cellStep_eq (al % 10) al u
    refine ⟨u.rowbuf, u.rowY, u.quad, m, ?_⟩
    rw [he, hcell]
    rcases hu with rfl | ⟨-, -, rfl⟩ <;> rfl

/-- A framebuffer byte that the act changes lies in the cell that starts at the position. -/
theorem rasterAct_fbRead (hf : s.fault = none) (hm : ModeAccepted s) {i : Nat}
    (h : fbRead (rasterAct s) i ≠ fbRead s i) :
    ∃ al c, s.line = s.config.vActiveStart + al ∧ 10 ≤ al ∧ al < 250 ∧ c < 40 ∧
      s.tickInLine = s.config.hActiveStart + c * s.config.ticksPerCell ∧
      al * 320 + c * 8 ≤ i ∧ i < al * 320 + c * 8 + 8 := by
  rcases rasterAct_accepted hf hm with he | ⟨-, -, he⟩ | ⟨al, u, h10, h250, hline, hu, he⟩ <;> rw [he] at h
  · exact absurd rfl h
  · exact absurd rfl h
  · have hsame : u.fb = s.fb ∧ u.tickInLine = s.tickInLine ∧ u.config = s.config := by
      rcases hu with rfl | ⟨-, -, rfl⟩ <;> exact ⟨rfl, rfl, rfl⟩
    obtain ⟨hfb, htick, hconfig⟩ := hsame
    have hread : fbRead u i = fbRead s i := congrArg (Memory.read · i) hfb
    rw [← hread] at h
    obtain ⟨c, hc, hstart, hlow, hhigh⟩ := cellStep_fbRead h
    rw [htick, hconfig] at hstart
    exact ⟨al, c, hline, h10, h250, hc, hstart, hlow, hhigh⟩

/-- The row buffer changes only at the first tick of a text row. -/
theorem rasterAct_rows (hf : s.fault = none) (hm : ModeAccepted s)
    (h : (rasterAct s).rowbuf ≠ s.rowbuf ∨ (rasterAct s).rowY ≠ s.rowY) :
    s.tickInLine = 0 ∧ ∃ k, 1 ≤ k ∧ k ≤ 24 ∧ s.line = s.config.vActiveStart + 10 * k := by
  rcases rasterAct_accepted hf hm with he | ⟨-, -, he⟩ | ⟨al, u, h10, h250, hline, hu, he⟩
  · simp [he] at h
  · simp [he, serviceRow] at h
  · obtain ⟨m, hcell⟩ := cellStep_eq (al % 10) al u
    rcases hu with rfl | ⟨hfirst, htick, -⟩
    · simp [he, hcell] at h
    · exact ⟨htick, al / 10, by omega, by omega, by omega⟩

/-- The quadrants change only at the first tick of a text row or of the service row. -/
theorem rasterAct_quad (hf : s.fault = none) (hm : ModeAccepted s) (h : (rasterAct s).quad ≠ s.quad) :
    s.tickInLine = 0 ∧ ∃ k ≤ 24, s.line = s.config.vActiveStart + 10 * k := by
  rcases rasterAct_accepted hf hm with he | ⟨hline, htick, -⟩ | ⟨al, u, h10, h250, hline, hu, he⟩
  · simp [he] at h
  · exact ⟨htick, 0, by omega, by omega⟩
  · obtain ⟨m, hcell⟩ := cellStep_eq (al % 10) al u
    rcases hu with rfl | ⟨hfirst, htick, -⟩
    · simp [he, hcell] at h
    · exact ⟨htick, al / 10, by omega, by omega⟩

/-! ### The tick -/

theorem advance_eq (s : State) : ∃ k l, advance s = { s with tickInLine := k, line := l } := by
  simp only [advance]
  split
  · exact ⟨_, _, rfl⟩
  · exact ⟨_, s.line, rfl⟩

/-- In an accepted mode a raster tick runs to its end: the rows and the framebuffer are those of the act, the sync
levels those of the position found, and the rest but the position stays. -/
theorem rasterStep_accepted (hf : s.fault = none) (hm : ModeAccepted s) :
    ∃ k l, rasterStep s =
      { s with
          tickInLine := k, line := l, rowbuf := (rasterAct s).rowbuf, rowY := (rasterAct s).rowY
          quad := (rasterAct s).quad, fb := (rasterAct s).fb, hs := hsLevel s.config s.tickInLine
          vs := vsLevel s.line } := by
  obtain ⟨b, y, q, m, hact⟩ := rasterAct_eq hf hm
  have hact_running : (rasterAct s).fault = none := by rw [hact]; exact hf
  have hsync_running : (syncOut (rasterAct s)).fault = none := hact_running
  obtain ⟨k, l, hadvance⟩ := advance_eq (syncOut (rasterAct s))
  refine ⟨k, l, ?_⟩
  rw [rasterStep, liveSeq_cons, liveSeq_cons, liveSeq_cons, liveSeq_nil, live_of_running s _ hf,
    live_of_running _ _ hact_running, live_of_running _ _ hsync_running, hadvance, hact]
  rfl

end

/-- Settles O36: the rows and the framebuffer a raster tick leaves are those of the act of its position. -/
theorem rasterTickChangesOnlyItsPosition : Obligations.RasterTickChangesOnlyItsPosition := by
  intro s hf hm
  obtain ⟨k, l, hstep⟩ := rasterStep_accepted hf hm
  have hexec : exec .raTick s = .next (rasterStep s) := congrArg _ (live_of_running s _ hf)
  rw [hstep] at hexec
  have hvs : vsLevel s.line = false ↔ s.line = 0 ∨ s.line = 1 := by simp [vsLevel, or_iff_not_imp_left]
  have hhs : hsLevel s.config s.tickInLine = false ↔ s.tickInLine < s.config.hsTicks := by simp [hsLevel]
  exact ⟨_, hexec, rfl, hvs, hhs, fun _ => rasterAct_fbRead hf hm, rasterAct_rows hf hm, rasterAct_quad hf hm⟩

end Sys2Proof.Machine
end

section
/-! PROOFS of the family `20_memory`: the reference functions as arithmetic (20_memory R73, R74; 30_encoding R113).
Concatenation is positional notation, so a video-RAM offset has block, row and column as its digits. -/
namespace Sys2Proof.Machine

/-! ### Concatenation as arithmetic -/

theorem toNat_append_eq_add {m n : Nat} (x : BitVec m) (y : BitVec n) :
    (x ++ y).toNat = x.toNat * 2 ^ n + y.toNat := by
  rw [BitVec.toNat_append, ← Nat.shiftLeft_add_eq_or_of_lt y.isLt, Nat.shiftLeft_eq]

theorem transcodeRef_toNat (b : BitVec 2) (col : BitVec 6) (row : BitVec 5) :
    (transcodeRef b col row).toNat = b.toNat * 2048 + row.toNat * 64 + col.toNat := by
  rw [transcodeRef, toNat_append_eq_add, toNat_append_eq_add]
  omega

theorem ptrBlockRef_toNat (colreg : Byte) :
    (ptrBlockRef colreg).toNat = 2 * (colreg.getLsbD 6).toNat + (colreg.getLsbD 7).toNat := by
  rw [ptrBlockRef, toNat_append_eq_add, BitVec.toNat_ofBool, BitVec.toNat_ofBool]
  omega

/-- An offset names one block, one column and one row: they are its digits. -/
theorem transcodeRef_injective {b b' : BitVec 2} {col col' : BitVec 6} {row row' : BitVec 5}
    (h : transcodeRef b col row = transcodeRef b' col' row') : b = b' ∧ col = col' ∧ row = row' := by
  have hdigits : b.toNat * 2048 + row.toNat * 64 + col.toNat = b'.toNat * 2048 + row'.toNat * 64 + col'.toNat := by
    rw [← transcodeRef_toNat, ← transcodeRef_toNat, h]
  have hcol := col.isLt
  have hcol' := col'.isLt
  have hrow := row.isLt
  have hrow' := row'.isLt
  exact ⟨BitVec.eq_of_toNat_eq (by omega), BitVec.eq_of_toNat_eq (by omega), BitVec.eq_of_toNat_eq (by omega)⟩

/-! ### Pointers under the reference functions -/

section
variable {c : Config}

theorem transcode_of_reference (hc : c.transcodeAt = []) (b : BitVec 2) (col : BitVec 6) (row : BitVec 5) :
    transcode c b col row = transcodeRef b col row := by
  rw [transcode, hc, lookupOr]

theorem ptrBlock_of_reference (hc : c.ptrBlockAt = []) (rowreg colreg : Byte) :
    ptrBlock c rowreg colreg = ptrBlockRef colreg := by
  rw [ptrBlock, hc, lookupOr]

/-- Plane `j` of a register pair's pointer lies `j` blocks on, modulo 4, at the pair's row and column
(20_memory R74, 42_vdp_commands R181). -/
theorem ptrAddr_ptrOf_of_reference (ht : c.transcodeAt = []) (hp : c.ptrBlockAt = []) (rowreg colreg : Byte)
    (j : BitVec 2) :
    (ptrAddr c (ptrOf c rowreg colreg) j).toNat =
      (2 * (colreg.getLsbD 6).toNat + (colreg.getLsbD 7).toNat + j.toNat) % 4 * 2048 + rowreg.toNat % 32 * 64 +
        colreg.toNat % 64 := by
  have haddr : ptrAddr c (ptrOf c rowreg colreg) j =
      transcodeRef (ptrBlockRef colreg + j) (colreg.extractLsb' 0 6) (rowreg.extractLsb' 0 5) := by
    rw [ptrAddr, planeAddr, transcode_of_reference ht, ptrOf, ptrBlock_of_reference hp]
  rw [haddr, transcodeRef_toNat, BitVec.toNat_add, ptrBlockRef_toNat, BitVec.extractLsb'_toNat,
    BitVec.extractLsb'_toNat, Nat.shiftRight_zero, Nat.shiftRight_zero]

end

/-- Settles O15: the offset's arithmetic value gives the bound and the injectivity; law L3 holds without exceptions. -/
theorem referenceTranscodingIsInjective : Obligations.ReferenceTranscodingIsInjective :=
  ⟨fun b col row => ⟨transcodeRef_toNat b col row, (transcodeRef b col row).isLt⟩,
    fun _ _ _ _ _ _ => transcodeRef_injective, transcodeLaw_of_reference rfl⟩

/-- Settles O16: MP and AP are the pointers of their register pairs. -/
theorem pointerAddressesUnderReference : Obligations.PointerAddressesUnderReference := fun s j ht hp =>
  ⟨ptrAddr_ptrOf_of_reference ht hp (getReg s 6) (getReg s 7) j,
    ptrAddr_ptrOf_of_reference ht hp (getReg s 4) (getReg s 5) j⟩

end Sys2Proof.Machine
end

section
/-! PROOFS of the family `30_encoding`, the words (30_encoding R103, R105, R108, R127). Each operand form has one word,
so a word is accepted only as the encoding of what it decodes to. -/
namespace Sys2Proof

/-! ### Operands -/

theorem byteArg_eq_some {n : Nat} {b : Byte} : byteArg n = some b ↔ n = b.toNat := by
  have := b.isLt
  simp only [byteArg, Option.ite_none_right_eq_some, Option.some.injEq, ← BitVec.toNat_inj, BitVec.toNat_ofNat]
  omega

theorem bits3Arg_eq_some {n : Nat} {b : BitVec 3} : bits3Arg n = some b ↔ n = b.toNat := by
  have := b.isLt
  simp only [bits3Arg, Option.ite_none_right_eq_some, Option.some.injEq, ← BitVec.toNat_inj, BitVec.toNat_ofNat]
  omega

theorem levelArg_eq_some {n : Nat} {l : Level} : levelArg n = some l ↔ n = l.toNat := by
  simp only [levelArg, Level.toNat]
  cases l <;> split <;> simp_all

/-- The two readings of a level as a number are one. -/
theorem level_toNat (l : Bool) : Level.toNat l = l.toNat := by cases l <;> rfl

theorem bytesArg_eq_some {ns : List Nat} {bs : List Byte} : bytesArg ns = some bs ↔ ns = bytesNat bs := by
  induction ns generalizing bs with
  | nil => cases bs <;> simp [bytesArg, bytesNat]
  | cons n ns ih =>
    cases bs with
    | nil => simp only [bytesArg, bytesNat]; split <;> simp
    | cons b bs =>
      have hcons : bytesArg (n :: ns) = some (b :: bs) ↔ byteArg n = some b ∧ bytesArg ns = some bs := by
        simp only [bytesArg]; split <;> simp_all
      rw [hcons, byteArg_eq_some, ih, bytesNat, bytesNat, List.map_cons, List.cons.injEq]

theorem accept_eq_ok {o : Option Instr} {i : Instr} : accept o = .ok i ↔ o = some i ∧ i.wf = true := by
  cases o with
  | none => simp [accept]
  | some j =>
    cases hj : j.wf with
    | true => simp only [accept, hj]; grind
    | false => simp only [accept, hj]; grind

/-! ### Command bytes, selectors and edges -/

/-- Every byte is the command byte of the command it decodes to (R108). -/
theorem encodeCmd_decodeCmd : ∀ c : Byte, encodeCmd? (decodeCmd c) = some c := by decide

/-- The command byte of a command decodes to it (R108). -/
theorem decodeCmd_of_encodeCmd {i : Instr} {c : Byte} (h : encodeCmd? i = some c) : decodeCmd c = i := by
  open Sys2Proof.Laws in
  cases i with
  | krfW inc => exact CommandByte.krfW inc c h
  | krfR inc => exact CommandByte.krfR inc c h
  | krgW inc => exact CommandByte.krgW inc c h
  | krgR inc => exact CommandByte.krgR inc c h
  | unimplClr p3 p1 p0 => exact CommandByte.unimplClr p3 p1 p0 c h
  | unimplKre p => exact CommandByte.unimplKre p c h
  | unimplKrv p => exact CommandByte.unimplKrv p c h
  | octWMp inc => exact CommandByte.octWMp inc c h
  | octWAp inc => exact CommandByte.octWAp inc c h
  | octRMp inc => exact CommandByte.octRMp inc c h
  | octRAp inc => exact CommandByte.octRAp inc c h
  | unimplOct p3 p2 p0 => exact CommandByte.unimplOct p3 p2 p0 c h
  | unimplKrc p => exact CommandByte.unimplKrc p c h
  | unimplKrl p => exact CommandByte.unimplKrl p c h
  | unimplExp p => exact CommandByte.unimplExp p c h
  | unimplCmp p => exact CommandByte.unimplCmp p c h
  | indW r => exact CommandByte.indW r c h
  | indR r => exact CommandByte.indR r c h
  | unimplNop p => exact CommandByte.unimplNop p c h
  | unknownA p => exact CommandByte.unknownA p c h
  | iny p => exact CommandByte.iny p c h
  | unknownC p => exact CommandByte.unknownC p c h
  | unimplMvb p => exact CommandByte.unimplMvb p c h
  | unimplMvd p => exact CommandByte.unimplMvd p c h
  | unimplMvt p => exact CommandByte.unimplMvt p c h
  | _ => cases h

theorem encode_of_encodeCmd {i : Instr} {c : Byte} (h : encodeCmd? i = some c) : encode i = ⟨.cmd, [c.toNat]⟩ := by
  simp only [encode, h]

/-- A command has no operand outside the range of its bits. -/
theorem wf_of_encodeCmd {i : Instr} {c : Byte} (h : encodeCmd? i = some c) : i.wf = true := by
  cases i with
  | raRowReload | raCell | out | inp | wreg | wregx | rreg | cmd | kout => cases h
  | _ => rfl

theorem encode_decodeCmd (c : Byte) : encode (decodeCmd c) = ⟨.cmd, [c.toNat]⟩ :=
  encode_of_encodeCmd (encodeCmd_decodeCmd c)

/-- Every selector is the word of the outcome it selects (R103). -/
theorem encode_decodeBd : ∀ t : BitVec 4, (decodeBd t).wf = true ∧ encode (decodeBd t) = ⟨.bd, [t.toNat]⟩ := by decide

theorem decode_cmd (c : Byte) : decode ⟨.cmd, [c.toNat]⟩ = .ok (decodeCmd c) := by
  simp only [decode, c.isLt, if_true, BitVec.ofNat_toNat, BitVec.setWidth_eq]

/-! ### From a word to its operation -/

theorem decodeEdgeAs_encodes {pair ad ds : Nat} {i : Instr} (h : decodeEdgeAs pair ad ds = .ok i) :
    i.wf = true ∧ encode i = ⟨.edgeAs, [pair, ad, ds]⟩ := by
  simp only [decodeEdgeAs] at h
  split at h
  · next hpair =>
    simp only [accept_eq_ok, Option.bind_eq_some_iff, Option.map_eq_some_iff, byteArg_eq_some, levelArg_eq_some] at h
    obtain ⟨⟨b, rfl, l, rfl, rfl⟩, hwf⟩ := h
    exact ⟨hwf, by rw [hpair]; rfl⟩
  · cases h

theorem decodeEdgeDs_encodes {pair rw : Nat} {i : Instr} (h : decodeEdgeDs pair rw = .ok i) :
    i.wf = true ∧ encode i = ⟨.edgeDs, [pair, rw]⟩ := by
  simp only [decodeEdgeDs] at h
  split at h
  · next hpair =>
    simp only [accept_eq_ok, Option.map_eq_some_iff, levelArg_eq_some] at h
    obtain ⟨⟨l, rfl, rfl⟩, hwf⟩ := h
    exact ⟨hwf, by rw [hpair]; rfl⟩
  · cases h

theorem decodeEdgeRw_encodes {pair ad : Nat} {i : Instr} (h : decodeEdgeRw pair ad = .ok i) :
    i.wf = true ∧ encode i = ⟨.edgeRw, [pair, ad]⟩ := by
  simp only [decodeEdgeRw] at h
  split at h
  · next hpair =>
    simp only [accept_eq_ok, Option.map_eq_some_iff, byteArg_eq_some] at h
    obtain ⟨⟨b, rfl, rfl⟩, hwf⟩ := h
    exact ⟨hwf, by rw [hpair]; rfl⟩
  · split at h
    · next hpair =>
      split at h
      · next had => cases h; exact ⟨rfl, by rw [hpair, had]; rfl⟩
      · cases h
    · cases h

/-- A named operation is accepted only with the operands that encode it. -/
theorem decodeNamed_encodes {op : NamedOp} {args : List Nat} {i : Instr} (h : decodeNamed op args = .ok i) :
    i.wf = true ∧ encode i = namedWord op args := by
  cases op with
  | tpInsert | hostInsert =>
    simp only [decodeNamed, accept_eq_ok, Option.map_eq_some_iff, bytesArg_eq_some] at h
    obtain ⟨⟨image, rfl, rfl⟩, hwf⟩ := h
    exact ⟨hwf, rfl⟩
  | raRowReload | raCell =>
    rcases args with _ | ⟨a, _ | ⟨b, _ | ⟨c, _ | _⟩⟩⟩ <;>
      simp only [decodeNamed, accept_eq_ok, Option.some.injEq, reduceCtorEq] at h
    obtain ⟨rfl, hwf⟩ := h
    exact ⟨hwf, rfl⟩
  | sysRun | idle =>
    rcases args with _ | ⟨n, _ | _⟩ <;> cases h
    exact ⟨rfl, rfl⟩
  | hostFb =>
    rcases args with _ | ⟨z, _ | _⟩ <;>
      simp only [decodeNamed, accept_eq_ok, Option.map_eq_some_iff, levelArg_eq_some, level_toNat, reduceCtorEq] at h
    obtain ⟨⟨z, rfl, rfl⟩, hwf⟩ := h
    exact ⟨hwf, rfl⟩
  | inp | rreg | cmd | kout =>
    rcases args with _ | ⟨a, _ | ⟨b, _ | ⟨c, _ | ⟨d, _ | ⟨e, _ | _⟩⟩⟩⟩⟩ <;>
      simp only [decodeNamed, accept_eq_ok, Option.map_eq_some_iff, byteArg_eq_some, bits3Arg_eq_some,
        reduceCtorEq] at h
    obtain ⟨⟨x, rfl, rfl⟩, hwf⟩ := h
    exact ⟨hwf, rfl⟩
  | tpTick | out | wreg | wregx =>
    rcases args with _ | ⟨a, _ | ⟨b, _ | ⟨c, _ | ⟨d, _ | ⟨e, _ | ⟨f, _ | _⟩⟩⟩⟩⟩⟩ <;>
      simp only [decodeNamed, accept_eq_ok, Option.bind_eq_some_iff, Option.map_eq_some_iff, byteArg_eq_some,
        bits3Arg_eq_some, reduceCtorEq] at h
    obtain ⟨⟨x, rfl, y, rfl, rfl⟩, hwf⟩ := h
    exact ⟨hwf, rfl⟩
  | _ =>
    cases args with
    | nil => cases h; exact ⟨rfl, rfl⟩
    | cons => cases h

/-- An accepted word is the encoding of what it decodes to, and that is well formed. -/
theorem encode_of_decode {w : OpWord} {i : Instr} (h : decode w = .ok i) : i.wf = true ∧ encode i = w := by
  obtain ⟨format, args⟩ := w
  cases format with
  | bd =>
    rcases args with _ | ⟨t, _ | _⟩ <;> simp only [decode, reduceCtorEq] at h
    split at h <;> cases h
    next ht =>
    have henc := encode_decodeBd (BitVec.ofNat 4 t)
    rwa [BitVec.toNat_ofNat, Nat.mod_eq_of_lt ht] at henc
  | cmd =>
    rcases args with _ | ⟨c, _ | _⟩ <;> simp only [decode, reduceCtorEq] at h
    split at h <;> cases h
    next hc =>
    have henc := encode_decodeCmd (BitVec.ofNat 8 c)
    rw [BitVec.toNat_ofNat, Nat.mod_eq_of_lt hc] at henc
    exact ⟨wf_of_encodeCmd (encodeCmd_decodeCmd _), henc⟩
  | edgeAs =>
    rcases args with _ | ⟨pair, _ | ⟨ad, _ | ⟨ds, _ | _⟩⟩⟩ <;> simp only [decode, reduceCtorEq] at h
    exact decodeEdgeAs_encodes h
  | edgeDs =>
    rcases args with _ | ⟨pair, _ | ⟨rw, _ | _⟩⟩ <;> simp only [decode, reduceCtorEq] at h
    exact decodeEdgeDs_encodes h
  | edgeRw =>
    rcases args with _ | ⟨pair, _ | ⟨ad, _ | _⟩⟩ <;> simp only [decode, reduceCtorEq] at h
    exact decodeEdgeRw_encodes h
  | named op => exact decodeNamed_encodes h

/-! ### From an operation to its word -/

theorem byteArg_toNat (b : Byte) : byteArg b.toNat = some b := byteArg_eq_some.2 rfl

theorem bits3Arg_toNat (b : BitVec 3) : bits3Arg b.toNat = some b := bits3Arg_eq_some.2 rfl

theorem levelArg_toNat (l : Level) : levelArg l.toNat = some l := levelArg_eq_some.2 rfl

theorem bytesArg_bytesNat (bs : List Byte) : bytesArg (bytesNat bs) = some bs := bytesArg_eq_some.2 rfl

/-- The word of a well-formed operation is accepted as that operation. -/
theorem decode_encode {i : Instr} (hwf : i.wf = true) : decode (encode i) = .ok i := by
  cases hcmd : encodeCmd? i with
  | some c => rw [encode_of_encodeCmd hcmd, decode_cmd, decodeCmd_of_encodeCmd hcmd]
  | none =>
    cases i with
    | bdIdle idx => revert idx; decide
    | vbAsFall ad ds =>
      exact accept_eq_ok.2 ⟨by rw [byteArg_toNat, Option.bind_some, levelArg_toNat, Option.map_some], hwf⟩
    | vbDsFall rw => exact accept_eq_ok.2 ⟨by rw [levelArg_toNat, Option.map_some], hwf⟩
    | vbRwFall ad => exact accept_eq_ok.2 ⟨by rw [byteArg_toNat, Option.map_some], hwf⟩
    | raRowReload | raCell => exact accept_eq_ok.2 ⟨rfl, hwf⟩
    | tpInsert image => exact accept_eq_ok.2 ⟨congrArg (Option.map Instr.tpInsert) (bytesArg_bytesNat image), hwf⟩
    | hostInsert image => exact accept_eq_ok.2 ⟨congrArg (Option.map Instr.hostInsert) (bytesArg_bytesNat image), hwf⟩
    | hostFb z => exact accept_eq_ok.2 ⟨by rw [← level_toNat, levelArg_toNat, Option.map_some], hwf⟩
    | inp | cmd | kout => exact accept_eq_ok.2 ⟨by rw [byteArg_toNat, Option.map_some], hwf⟩
    | rreg => exact accept_eq_ok.2 ⟨by rw [bits3Arg_toNat, Option.map_some], hwf⟩
    | out => exact accept_eq_ok.2 ⟨by rw [byteArg_toNat, Option.bind_some, byteArg_toNat, Option.map_some], hwf⟩
    | tpTick | wreg | wregx =>
      exact accept_eq_ok.2 ⟨by rw [bits3Arg_toNat, Option.bind_some, byteArg_toNat, Option.map_some], hwf⟩
    | krfW | krfR | krgW | krgR | octWMp | octWAp | octRMp | octRAp | indW | indR | iny | unknownA | unknownC
      | unimplClr | unimplOct | unimplKre | unimplKrv | unimplKrc | unimplKrl | unimplExp | unimplCmp | unimplNop
      | unimplMvb | unimplMvd | unimplMvt => cases hcmd
    | _ => rfl

/-- Settles O1: an accepted word is the encoding of what it decodes to, and the word of a well-formed operation is
accepted. -/
theorem decodingAndEncodingAgree : Obligations.DecodingAndEncodingAgree := fun _ _ =>
  ⟨encode_of_decode, fun ⟨hwf, henc⟩ => henc ▸ decode_encode hwf⟩

end Sys2Proof
end

section
/-! PROOFS of the family `30_encoding`, the command map row by row (30_encoding R108) and a few words. A row is a run of
bytes with one upper part; the lower bits are the parameter. -/
namespace Sys2Proof
open Sys2Proof.Machine

/-- A word between the first and the last with an upper part is that part with the word's lower bits. -/
theorem eq_append_of_row {m n : Nat} {hi : BitVec m} {c : BitVec (m + n)} (hlo : hi ++ 0#n ≤ c)
    (hhi : c ≤ hi ++ BitVec.allOnes n) : c = hi ++ c.extractLsb' 0 n := by
  have hpos : 0 < 2 ^ n := Nat.two_pow_pos n
  rw [BitVec.le_def, toNat_append_eq_add] at hlo hhi
  rw [BitVec.toNat_ofNat, Nat.zero_mod] at hlo
  rw [BitVec.toNat_allOnes] at hhi
  have hdiv : c.toNat / 2 ^ n = hi.toNat := by
    rw [Nat.div_eq_iff hpos]
    omega
  refine BitVec.eq_of_toNat_eq ?_
  rw [toNat_append_eq_add, BitVec.extractLsb'_toNat, Nat.shiftRight_zero, ← hdiv, Nat.div_add_mod']

/-- A decoding known on all words with an upper part is known on the row of them. -/
theorem decode_row {m n : Nat} {f : BitVec (m + n) → Instr} {mk : BitVec n → Instr} (hi : BitVec m)
    (hf : ∀ p, f (hi ++ p) = mk p) {c : BitVec (m + n)} (hc : hi ++ 0#n ≤ c ∧ c ≤ hi ++ BitVec.allOnes n) :
    f c = mk (c.extractLsb' 0 n) := by
  obtain ⟨hlo, hhi⟩ := hc
  exact (congrArg f (eq_append_of_row hlo hhi)).trans (hf _)

/-- The sixteen bytes of an opcode (R105). -/
theorem decodeCmd_opcode {mk : BitVec 4 → Instr} (op : BitVec 4) (hmk : ∀ p, decodeCmd (op ++ p) = mk p) {c : Byte}
    (hc : op ++ 0x0#4 ≤ c ∧ c ≤ op ++ 0xF#4) : decodeCmd c = mk (c.extractLsb' 0 4) :=
  decode_row (m := 4) (n := 4) (f := decodeCmd) op hmk hc

/-- The eight bytes of an indirect access, one for each index (R108). -/
theorem decodeCmd_indirect {mk : BitVec 3 → Instr} (hi : BitVec 5) (hmk : ∀ r, decodeCmd (hi ++ r) = mk r) {c : Byte}
    (hc : hi ++ 0#3 ≤ c ∧ c ≤ hi ++ 7#3) : decodeCmd c = mk (c.extractLsb' 0 3) :=
  decode_row (m := 5) (n := 3) (f := decodeCmd) hi hmk hc

/-- Settles O2: the rows with a free parameter are runs of bytes, the rows of the opcodes 0x0 and 0x3 are listed. -/
theorem commandMapCoversAllBytes : Obligations.CommandMapCoversAllBytes := by
  intro c p i
  have htop : c ≤ 0xFF#8 := Nat.le_of_lt_succ c.isLt
  exact
    ⟨fun h => by fin_cases h <;> rfl, fun h => by fin_cases h <;> rfl, fun h => by fin_cases h <;> rfl,
      fun h => by fin_cases h <;> rfl, fun h => by fin_cases h <;> rfl,
      decodeCmd_opcode 0x1#4 (by decide), decodeCmd_opcode 0x2#4 (by decide),
      fun h => by fin_cases h <;> rfl, fun h => by fin_cases h <;> rfl, fun h => by fin_cases h <;> rfl,
      fun h => by fin_cases h <;> rfl, fun h => by fin_cases h <;> rfl,
      decodeCmd_opcode 0x4#4 (by decide), decodeCmd_opcode 0x5#4 (by decide), decodeCmd_opcode 0x6#4 (by decide),
      decodeCmd_opcode 0x7#4 (by decide), decodeCmd_indirect 0b10000#5 (by decide),
      decodeCmd_indirect 0b10001#5 (by decide), decodeCmd_opcode 0x9#4 (by decide), decodeCmd_opcode 0xA#4 (by decide),
      decodeCmd_opcode 0xB#4 (by decide), decodeCmd_opcode 0xC#4 (by decide), decodeCmd_opcode 0xD#4 (by decide),
      decodeCmd_opcode 0xE#4 (by decide), fun h => decodeCmd_opcode 0xF#4 (by decide) ⟨h, htop⟩⟩

/-- Settles O3: each word is a numeral. -/
theorem sampleWordsDecode : Obligations.SampleWordsDecode := ⟨rfl, rfl, rfl, rfl, rfl, rfl, rfl, rfl⟩
end Sys2Proof
end

section
/-! PROOFS of the family `30_encoding`, the step and the pseudo-instructions (30_encoding R128 to R130). -/
namespace Sys2Proof.Machine

/-! ### The step -/

section
variable {s : State} {w : OpWord} {rest : List OpWord}

/-- The host's turn leaves the script, so the step finds the word it held. -/
theorem nextWord_hostTurn (h : s.script = w :: rest) : nextWord (hostTurn s) = some w := by
  rw [nextWord, hostTurn_script, h, List.head?_cons]

theorem step_of_decoded {i : Instr} (h : s.script = w :: rest) (hw : decode w = .ok i) :
    step s = exec i { hostTurn s with script := rest } := by
  have hdrop : dropWord (hostTurn s) = { hostTurn s with script := rest } := by
    rw [dropWord, hostTurn_script, h, List.tail_cons]
  simp only [step, runNext, nextWord_hostTurn h, hw, hdrop]

theorem step_of_undecodable {e : DecodeError} (h : s.script = w :: rest) (hw : decode w = .error e) :
    step s = .refused (.undecodable e) := by
  simp only [step, runNext, nextWord_hostTurn h, hw]

theorem step_of_empty_script (h : s.script = []) : step s = exec .sysTick (hostTurn s) := by
  have hnone : nextWord (hostTurn s) = none := by rw [nextWord, hostTurn_script, h, List.head?_nil]
  simp only [step, runNext, hnone]

end

/-- Settles O4: the step is the host's turn, then the first word of the script or a system tick. -/
theorem stepRunsDecodedOperation : Obligations.StepRunsDecodedOperation := fun s =>
  ⟨fun _ _ _ => step_of_decoded, fun _ _ _ => step_of_undecodable, step_of_empty_script, hostTurn_of_none s⟩

/-! ### The pseudo-instructions -/

section
variable (s : State)

/-- A cycle of proper lengths on any port plays to its end. -/
theorem exec_out {t : BusTiming} (ht : t.wf = true) (port v : Byte) :
    exec (.out port v t) s = .next (busOut port v t s) := if_pos ht

theorem exec_inp {t : BusTiming} (ht : t.wf = true) (port : Byte) :
    exec (.inp port t) s = .next (busIn port t s) := if_pos ht

theorem exec_kout {t : BusTiming} (ht : t.wf = true) (b : Byte) :
    exec (.kout b t) s = .next (busOut s.config.portTape b t s) := if_pos ht

section
variable {t1 t2 : BusTiming} (h1 : t1.wf = true) (h2 : t2.wf = true)
include h1 h2

theorem exec_wreg (n : BitVec 3) (v : Byte) : exec (.wreg n v t1 t2) s = .next (writeReg n v t1 t2 s) :=
  if_pos (Bool.and_eq_true_iff.2 ⟨h1, h2⟩)

theorem exec_wregx (n : BitVec 3) (v : Byte) : exec (.wregx n v t1 t2) s = .next (writeRegX n v t1 t2 s) :=
  if_pos (Bool.and_eq_true_iff.2 ⟨h1, h2⟩)

theorem exec_rreg (n : BitVec 3) : exec (.rreg n t1 t2) s = .next (readReg n t1 t2 s) :=
  if_pos (Bool.and_eq_true_iff.2 ⟨h1, h2⟩)

theorem exec_cmd (c : Byte) : exec (.cmd c t1 t2) s = .next (writeRegX 0 c t1 t2 s) :=
  if_pos (Bool.and_eq_true_iff.2 ⟨h1, h2⟩)

end

end

/-- Settles O55: a pseudo-instruction answers the state that its bus cycles leave one after another. -/
theorem pseudoInstructionsExpand : Obligations.PseudoInstructionsExpand := by
  intro s n v t1 t2 h1 h2 pa pd
  exact
    ⟨fun port => ⟨⟨_, exec_out s h1 port v⟩, ⟨_, exec_inp s h1 port⟩⟩,
      ⟨_, _, exec_out s h1 pa (addrByte n), exec_out _ h2 pd v, exec_wreg s h1 h2 n v⟩,
      ⟨_, _, exec_out s h1 pa (addrByteX n), exec_out _ h2 pd v, exec_wregx s h1 h2 n v⟩,
      ⟨_, _, exec_out s h1 pa (addrByte n), exec_inp _ h2 pd, exec_rreg s h1 h2 n⟩,
      (exec_cmd s h1 h2 v).trans (exec_wregx s h1 h2 0 v).symm,
      (exec_kout s h1 v).trans (exec_out s h1 _ v).symm⟩

end Sys2Proof.Machine
end

section
/-! PROOFS of the family `30_encoding`, one system tick of a bus script (45_system_tick R311, 41_vdp_bus_interface R160,
R161). The raster, the pin records and the outside world run by themselves under a script, so a tick is described up to
them: `UpToTick`. What is left of a tick in which no command runs is the strobes on the VDP's pins, one codec tick and
the count. -/
namespace Sys2Proof.Machine

/-! ### States up to what runs by itself -/

/-- The parts of `t` that a VDP tick changes without any edge, put back: the raster, and the pins it returns. -/
def restoreVdp (s t : State) : State := { restoreRaster s t with fault := t.fault, pins := s.pins }

/-- The parts of `t` that a system tick changes whatever its CPU record is, put back. -/
def restoreTick (s t : State) : State :=
  { restoreVdp s t with
      adOut := s.adOut, adDriven := s.adDriven, cpuPins := s.cpuPins, bus := s.bus, cpu := s.cpu, outside := s.outside }

/-- `t` is `u` but for the raster, the drive of `AD`, the pin records and the outside world. -/
def UpToTick (t u : State) : Prop := restoreTick u t = u

theorem upToTick_refl (s : State) : UpToTick s s := rfl

theorem UpToTick.trans {t u v : State} (h1 : UpToTick t u) (h2 : UpToTick u v) : UpToTick t v := by
  have hskip : restoreTick v t = restoreTick v (restoreTick u t) := rfl
  rw [UpToTick, hskip, h1, h2]

/-- A VDP tick without an edge keeps a state up to what runs by itself. -/
theorem upToTick_of_restoreVdp {t u : State} (h : restoreVdp u t = u) : UpToTick t u := by
  have hskip : restoreTick u t = restoreTick u (restoreVdp u t) := rfl
  rw [UpToTick, hskip, h]
  rfl

/-- A part of the state that does not run by itself is the same in states that agree up to that. -/
theorem UpToTick.part {t u : State} (h : UpToTick t u) {α : Type} (p : State → α)
    (hp : p (restoreTick u t) = p t := by rfl) : p t = p u := by
  rw [← hp, h]

/-- The operation does not see the change `g`. -/
def Commutes (g f : State → State) : Prop := ∀ s, f (g s) = g (f s)

theorem commutes_onlyIf {g f : State → State} (c : Bool) (hf : Commutes g f) : Commutes g (onlyIf c f) := fun s => by
  cases c
  · rfl
  · exact hf s

/-- The operation neither reads nor writes what runs by itself. -/
def IgnoresFreeParts (f : State → State) : Prop := ∀ u, Commutes (restoreTick u) f

section
variable {f : State → State}

theorem UpToTick.map {t u : State} (h : UpToTick t u) (hf : IgnoresFreeParts f) : UpToTick (f t) (f u) := by
  have hu : f u = restoreTick u (f t) := by rw [← hf, h]
  rw [UpToTick, hu]
  rfl

theorem ignores_live (hf : IgnoresFreeParts f) : IgnoresFreeParts (live f) := fun u t => by
  cases h : t.fault with
  | none =>
    have hu : (restoreTick u t).fault = none := h
    rw [live_of_running _ f h, live_of_running _ f hu, hf]
  | some e =>
    have hu : (restoreTick u t).fault = some e := h
    rw [live_of_halted _ f e h, live_of_halted _ f e hu]

theorem ignores_onlyIf (c : Bool) (hf : IgnoresFreeParts f) : IgnoresFreeParts (onlyIf c f) := fun u =>
  commutes_onlyIf c (hf u)

theorem ignores_raise (e : Fault) : IgnoresFreeParts (raise e) := fun u t => by
  cases h : t.fault with
  | none =>
    have hu : (restoreTick u t).fault = none := h
    rw [raise_of_running _ e h, raise_of_running _ e hu]; rfl
  | some e' =>
    have hu : (restoreTick u t).fault = some e' := h
    rw [raise_of_halted _ e e' h, raise_of_halted _ e e' hu]

/-- The codec reads and writes the tape, the log and the fault mark (44_tape_codec R281). -/
theorem ignores_runPulse : IgnoresFreeParts runPulse := fun u t => by
  have hsame : selectPulse (restoreTick u t).config (restoreTick u t).tape = selectPulse t.config t.tape := rfl
  simp only [runPulse, hsame]
  cases selectPulse t.config t.tape with
  | notimpl => exact ignores_raise _ u t
  | _ => rfl

theorem ignores_toggle (d : Nat) : IgnoresFreeParts (toggle d) := fun u t => by
  have hpush : IgnoresFreeParts (onTape (push t.config d)) := fun _ _ => rfl
  exact (congrArg runPulse (ignores_onlyIf _ hpush u t)).trans (ignores_runPulse u _)

theorem ignores_tapeTick (w : Level) (d : Byte) : IgnoresFreeParts (tapeTick w d) := fun u t => by
  have hrestart : IgnoresFreeParts restartMeasure := fun _ _ => rfl
  have hseq (e : Nat) : IgnoresFreeParts (liveSeq [toggle e, restartMeasure]) := fun u t => by
    rw [liveSeq_cons, ignores_live (ignores_toggle e), liveSeq_cons, ignores_live hrestart]; rfl
  exact ignores_onlyIf _ (hseq _) u (countAndLatch w d t)

end

/-! ### The strobes of a tick -/

/-- The strobes that the levels `b` put on the VDP's pins with the byte `d`, in the order of R161; the rising edge of
`RW`, which runs a command, is not among them. -/
def strobes (b : BusLines) (d : Byte) (s : State) : State :=
  onlyIf (s.prevRw && !b.rw) (rwFall d)
    (onlyIf (s.prevDs && !b.ds) (dsFall b.rw) (onlyIf (s.prevAs && !b.as) (asFall d b.ds) s))

/-- The edge detectors after the levels `b`. -/
def seen (b : BusLines) (s : State) : State := { s with prevAs := b.as, prevDs := b.ds, prevRw := b.rw }

/-- Nothing is driven at the start of a tick (45_system_tick R311, step 4). -/
def undriven (s : State) : State := { s with adDriven := false }

theorem upToTick_undriven (s : State) : UpToTick (undriven s) s := by cases s; rfl

/-- What the VDP makes of the levels `b` and the byte `d` in a tick in which no command runs (R168). -/
def strobed (b : BusLines) (d : Byte) (s : State) : State := seen b (strobes b d (undriven s))

/-- No command runs in a tick with the levels `b`: `RW` does not rise, or the latched address does not ask for one
(R166). -/
def NoCommand (b : BusLines) (s : State) : Prop := s.prevRw = true ∨ b.rw = false ∨ b.as = true ∧ s.xqLatch = false

/-- Strobes change the direct registers, the latches, the drive of `AD` and the log only. -/
theorem strobes_frame (b : BusLines) (d : Byte) (s : State) :
    { strobes b d s with
        r := s.r, addrLatch := s.addrLatch, dsLatch := s.dsLatch, xqLatch := s.xqLatch
        adOut := s.adOut, adDriven := s.adDriven, log := s.log } = s := by
  simp only [strobes, onlyIf, rwFall, dsFall]
  repeat' split
  all_goals rfl

/-- A register read that is answered drives its value; a read of register 0 is logged (R163, R336). -/
def answerRead (s : State) : State :=
  { s with
      adOut := busReadValue s, adDriven := true
      log := if latchedReg s = 0 then s.log ++ [.r0PlaceholderRead] else s.log }

theorem dsFall_eq (rw : Level) (s : State) :
    dsFall rw s = if (rw && !s.addrLatch.getLsbD 4) = true then answerRead s else s := by
  have hlog : onlyIf (latchedReg s == 0) (logEvent .r0PlaceholderRead)
      { s with adOut := busReadValue s, adDriven := true } = answerRead s := by
    simp only [onlyIf, answerRead, beq_iff_eq]
    split <;> rfl
  rw [dsFall, hlog]

/-- What the edge tests read beside the latched address. -/
def edgeInputs (s : State) : Option Fault × VdpPins × Level × Level × Level :=
  (s.fault, s.pins, s.prevAs, s.prevDs, s.prevRw)

theorem edgeInputs_asFall (d : Byte) (ds : Level) : Leaves edgeInputs (asFall d ds) := fun _ => rfl

theorem edgeInputs_dsFall (rw : Level) : Leaves edgeInputs (dsFall rw) := fun s => by
  rw [dsFall_eq]; split <;> rfl

theorem edgeInputs_rwFall (d : Byte) : Leaves edgeInputs (rwFall d) := fun s =>
  leaves_onlyIf (f := setReg (latchedReg s) d) _ (fun _ => rfl) s

theorem edgeInputs_strobes (b : BusLines) (d : Byte) : Leaves edgeInputs (strobes b d) := fun s =>
  (leaves_onlyIf _ (edgeInputs_rwFall d) _).trans
    ((leaves_onlyIf _ (edgeInputs_dsFall b.rw) _).trans (leaves_onlyIf _ (edgeInputs_asFall d b.ds) s))

/-- While `AS` is high no strobe changes the execute bit (R162). -/
theorem strobes_xqLatch {b : BusLines} {s : State} (d : Byte) (h : b.as = true) :
    (strobes b d s).xqLatch = s.xqLatch := by
  have hds : Leaves State.xqLatch (dsFall b.rw) := fun s => by rw [dsFall_eq]; split <;> rfl
  have hrw : Leaves State.xqLatch (rwFall d) := fun s =>
    leaves_onlyIf (f := setReg (latchedReg s) d) _ (fun _ => rfl) s
  have has : (s.prevAs && !b.as) = false := by rw [h, Bool.not_true, Bool.and_false]
  rw [strobes, has, onlyIf_false]
  exact (leaves_onlyIf _ hrw _).trans (leaves_onlyIf _ hds s)

/-- Without a command the edge of `RW` does nothing. -/
theorem rwRise_noCommand {b : BusLines} {s : State} (d : Byte) (h : NoCommand b s) :
    onlyIf (!s.prevRw && b.rw) rwRise (strobes b d s) = strobes b d s := by
  rcases h with hprev | hrw | ⟨has, hxq⟩
  · rw [hprev]; rfl
  · rw [hrw, Bool.and_false]; rfl
  · have hno : rwRise (strobes b d s) = strobes b d s := by
      rw [rwRise, strobes_xqLatch d has, hxq]; rfl
    cases !s.prevRw && b.rw
    · rfl
    · exact hno

/-- The bus step of a tick in which no command runs is its strobes (R161). -/
theorem busStep_noCommand {b : BusLines} {s : State} (d : Byte) (hf : s.fault = none) (h : NoCommand b s)
    (had : s.pins.ad = d) (has : s.pins.as = b.as) (hds : s.pins.ds = b.ds) (hrw : s.pins.rw = b.rw) :
    busStep s = seen b (strobes b d s) := by
  have inputs {x : State} (hx : edgeInputs x = edgeInputs s) :
      x.fault = none ∧ x.pins = s.pins ∧ x.prevDs = s.prevDs ∧ x.prevRw = s.prevRw := by
    simp only [edgeInputs, Prod.mk.injEq] at hx
    obtain ⟨hfault, hpins, -, hprevDs, hprevRw⟩ := hx
    exact ⟨hfault.trans hf, hpins, hprevDs, hprevRw⟩
  have hx1 := leaves_onlyIf (s.prevAs && !b.as) (edgeInputs_asFall d b.ds) s
  have hx2 := (leaves_onlyIf (s.prevDs && !b.ds) (edgeInputs_dsFall b.rw) _).trans hx1
  obtain ⟨hf1, hpins1, hprevDs, -⟩ := inputs hx1
  obtain ⟨hf2, hpins2, -, hprevRw⟩ := inputs hx2
  obtain ⟨hf3, hpins3, -, hprevRw3⟩ := inputs (edgeInputs_strobes b d s)
  rw [busStep, liveSeq_cons, live_of_running s _ hf, had, has, hds, liveSeq_cons, live_of_running _ _ hf1, hpins1,
    hprevDs, hds, hrw, liveSeq_cons, live_of_running _ _ hf2, hpins2, hprevRw, had, hrw, ← strobes, liveSeq_cons,
    live_of_running _ _ hf3, hpins3, hprevRw3, hrw, rwRise_noCommand d h, liveSeq_cons, live_of_running _ _ hf3,
    liveSeq_nil]
  simp only [latchEdges, seen, hpins3, has, hds, hrw]

/-! ### The VDP ticks of a system tick -/

/-- `t` is `u` after VDP ticks without an edge: the raster went on, the detectors show the pins' levels, and driven data
stand on the pins (R160, R168). -/
structure VdpSettled (u t : State) : Prop where
  same : restoreVdp u t = u
  levels : t.pins.as = t.prevAs ∧ t.pins.ds = t.prevDs ∧ t.pins.rw = t.prevRw
  data : t.adDriven = true → t.pins.ad = t.adOut

theorem restoreVdp_trans {t u v : State} (h1 : restoreVdp u t = u) (h2 : restoreVdp v u = v) : restoreVdp v t = v := by
  have hskip : restoreVdp v t = restoreVdp v (restoreVdp u t) := rfl
  rw [hskip, h1, h2]

/-- A VDP tick in an accepted mode leaves what its bus step leaves, but for the raster and the pins it returns. -/
theorem vdpTick_settled {s u : State} (hf : s.fault = none) (hbus : busStep s = u) (huf : u.fault = none)
    (hum : ModeAccepted u) (hlevels : u.pins.as = u.prevAs ∧ u.pins.ds = u.prevDs ∧ u.pins.rw = u.prevRw) :
    VdpSettled u (vdpTick s) := by
  obtain ⟨k, l, hraster⟩ := rasterStep_accepted huf hum
  have hrunning : (rasterStep u).fault = none := rasterStep_running u huf hum
  have htick : vdpTick s = returnPins (rasterStep u) := by
    rw [vdpTick, liveSeq_cons, live_of_running s _ hf, hbus, liveSeq_cons, live_of_running u _ huf, liveSeq_cons,
      live_of_running _ _ hrunning, liveSeq_nil]
  rw [htick, hraster]
  exact ⟨rfl, hlevels, fun hdriven => if_pos hdriven⟩

theorem vdpTicks_settled {u : State} (huf : u.fault = none) (hum : ModeAccepted u) (n : Nat) {t : State}
    (ht : VdpSettled u t) : VdpSettled u (vdpTicks n t) := by
  induction n generalizing t with
  | zero => exact ht
  | succ n ih =>
    obtain ⟨hsame, hlevels, -⟩ := ht
    have hfault : t.fault = none := (congrArg State.fault hsame :).trans huf
    have hmode : ModeAccepted t := by
      have hcfg : t.cfg = u.cfg := (congrArg State.cfg hsame :)
      rwa [ModeAccepted, hcfg]
    obtain ⟨has, hds, hrw⟩ := hlevels
    have hquiet := vdpTick_settled hfault (busStep_quiet t has hds hrw) hfault hmode ⟨has, hds, hrw⟩
    rw [vdpTicks, live_of_running t _ hfault]
    exact ih ⟨restoreVdp_trans hquiet.same hsame, hquiet.levels, hquiet.data⟩

/-- The VDP ticks of a system tick, of which there is at least one: the first sees the strobes. -/
theorem tickVdp_settled {b : BusLines} {s : State} (hf : s.fault = none) (hm : ModeAccepted s) (hr : 1 ≤ s.config.ratio)
    (hc : NoCommand b s) (has : s.pins.as = b.as) (hds : s.pins.ds = b.ds) (hrw : s.pins.rw = b.rw) :
    VdpSettled (seen b (strobes b s.pins.ad s)) (tickVdp s) := by
  have hframe := strobes_frame b s.pins.ad s
  have huf : (seen b (strobes b s.pins.ad s)).fault = none := (congrArg State.fault hframe :).trans hf
  have hum : ModeAccepted (seen b (strobes b s.pins.ad s)) := by
    have hcfg : (seen b (strobes b s.pins.ad s)).cfg = s.cfg := (congrArg State.cfg hframe :)
    rwa [ModeAccepted, hcfg]
  have hpins : (seen b (strobes b s.pins.ad s)).pins = s.pins := (congrArg State.pins hframe :)
  have hfirst := vdpTick_settled hf (busStep_noCommand _ hf hc rfl has hds hrw) huf hum
    (by rw [hpins]; exact ⟨has, hds, hrw⟩)
  obtain ⟨n, hn⟩ := Nat.exists_eq_add_of_le' hr
  rw [tickVdp, hn, vdpTicks, live_of_running s _ hf]
  exact vdpTicks_settled huf hum n hfirst

/-! ### The whole tick -/

/-- The byte that a tick leaves in the CPU's record: the keyboard's answer, else what the VDP drives, else the byte the
CPU put there (45_system_tick R311, steps 6 and 7). -/
def tickByte (b : BusLines) (p : CpuPins) (s : State) : Byte :=
  if b.kbd = false then keyAnswer s p.a
  else if (strobed b p.d s).adDriven then (strobed b p.d s).adOut else p.d

/-- The CPU's record and the outside world after an answer. -/
def putAnswer (o : Outside) (byte : Byte) (s : State) : State :=
  { s with outside := o, cpu := { s.cpu with d := byte } }

theorem upToTick_putAnswer (o : Outside) (byte : Byte) (s : State) : UpToTick (putAnswer o byte s) s := by cases s; rfl

theorem foldVdp_eq (t : State) :
    foldVdp t = putAnswer t.outside (if t.adDriven then t.pins.ad else t.cpu.d) t := by
  simp only [foldVdp]; split <;> rfl

theorem foldKeyboard_eq (t : State) :
    ∃ o, foldKeyboard t = putAnswer o (if t.bus.kbd = false then keyAnswer t t.cpu.a else t.cpu.d) t := by
  cases hkbd : t.bus.kbd with
  | true => exact ⟨t.outside, by simp only [foldKeyboard, hkbd]; rfl⟩
  | false =>
    have hdrop : ∃ o, dropKeyAnswer t = { t with outside := o } := by
      simp only [dropKeyAnswer]; split <;> exact ⟨_, rfl⟩
    obtain ⟨o, ho⟩ := hdrop
    exact ⟨o, by simp only [foldKeyboard, hkbd, ho]; rfl⟩

/-- The state with which a tick's VDP ticks begin (45_system_tick R311, steps 1 to 4). -/
def atBus (p : CpuPins) (s : State) : State := drivePins (decodeBus (takeCpu p s))

/-- The records of a tick after its decoder has run: no strobe reads or writes them. -/
def putRecords (p : CpuPins) (b : BusLines) (pins : VdpPins) (s : State) : State :=
  { s with cpu := p, bus := b, pins := pins }

theorem upToTick_putRecords (p : CpuPins) (b : BusLines) (pins : VdpPins) (s : State) :
    UpToTick (putRecords p b pins s) s := by cases s; rfl

theorem strobes_putRecords (b : BusLines) (d : Byte) (p : CpuPins) (bus : BusLines) (pins : VdpPins) :
    Commutes (putRecords p bus pins) (strobes b d) := fun s => by
  have has : Commutes (putRecords p bus pins) (asFall d b.ds) := fun _ => rfl
  have hds : Commutes (putRecords p bus pins) (dsFall b.rw) := fun s => by
    rw [dsFall_eq _ s, apply_ite (putRecords p bus pins)]
    exact dsFall_eq b.rw (putRecords p bus pins s)
  have hrw : Commutes (putRecords p bus pins) (rwFall d) := fun s =>
    commutes_onlyIf (g := putRecords p bus pins) (f := setReg (latchedReg s) d) (s.addrLatch.getLsbD 5)
      (fun _ => rfl) s
  calc strobes b d (putRecords p bus pins s)
      = onlyIf (s.prevRw && !b.rw) (rwFall d) (onlyIf (s.prevDs && !b.ds) (dsFall b.rw)
          (onlyIf (s.prevAs && !b.as) (asFall d b.ds) (putRecords p bus pins s))) := rfl
    _ = putRecords p bus pins (strobes b d s) := by
      rw [commutes_onlyIf _ has, commutes_onlyIf _ hds, commutes_onlyIf _ hrw, strobes]

/-- A tick without a memory access after its VDP ticks and its two answers: the strobes were made, the tick's byte
stands in the CPU's record. -/
theorem answered_upToTick {b : BusLines} {p : CpuPins} {s t : State} (hb : busDecode s.config p = b)
    (ht : VdpSettled (seen b (strobes b p.d (atBus p s))) t) :
    UpToTick (foldKeyboard (foldVdp t)) (strobed b p.d s) ∧ (foldKeyboard (foldVdp t)).bus = b ∧
      (foldKeyboard (foldVdp t)).cpu.d = tickByte b p s := by
  have hrecords : seen b (strobes b p.d (atBus p s)) =
      putRecords p (busDecode s.config p) (atBus p s).pins (strobed b p.d s) :=
    congrArg (seen b) (strobes_putRecords b p.d p _ _ (undriven s))
  rw [hrecords] at ht
  obtain ⟨hsame, -, hdata⟩ := ht
  have hup : UpToTick t (strobed b p.d s) := (upToTick_of_restoreVdp hsame).trans (upToTick_putRecords _ _ _ _)
  have hcpu : t.cpu = p := (congrArg State.cpu hsame :)
  have hbus : t.bus = b := (congrArg State.bus hsame :).trans hb
  have hdriven : t.adDriven = (strobed b p.d s).adDriven := (congrArg State.adDriven hsame :)
  have hout : t.adOut = (strobed b p.d s).adOut := (congrArg State.adOut hsame :)
  have hkey : keyAnswer t p.a = keyAnswer s p.a := by
    have houtside : t.outside = s.outside :=
      (congrArg State.outside hsame :).trans (congrArg State.outside (strobes_frame b p.d (undriven s)) :)
    simp only [keyAnswer, houtside]
  have hfold : (if t.adDriven then t.pins.ad else t.cpu.d) =
      if (strobed b p.d s).adDriven then (strobed b p.d s).adOut else p.d := by
    rw [← hdriven, ← hout, hcpu]
    split
    · next h => exact hdata h
    · rfl
  obtain ⟨o, ho⟩ := foldKeyboard_eq (foldVdp t)
  rw [foldVdp_eq, hfold] at ho ⊢
  have hbyte : (if t.bus.kbd = false then keyAnswer t t.cpu.a
      else if (strobed b p.d s).adDriven then (strobed b p.d s).adOut else p.d) = tickByte b p s := by
    rw [hbus, hcpu, hkey, tickByte]
  rw [ho]
  exact ⟨(upToTick_putAnswer _ _ _).trans ((upToTick_putAnswer _ _ _).trans hup), hbus, hbyte⟩

theorem strobed_fault (b : BusLines) (d : Byte) (s : State) : (strobed b d s).fault = s.fault :=
  (congrArg State.fault (strobes_frame b d (undriven s)) :)

section
variable {b : BusLines} {p : CpuPins} {s : State}

/-- A tick without a memory access and a command, up to its step 7: the strobes were made, and the tick's byte stands in
the CPU's record (45_system_tick R311). -/
theorem sysTickWith_answered (hf : s.fault = none) (hm : ModeAccepted s) (hr : 1 ≤ s.config.ratio)
    (hmreq : p.mreq = false) (hb : busDecode s.config p = b) (hc : NoCommand b s) :
    ∃ w, UpToTick w (strobed b p.d s) ∧ w.bus = b ∧ w.cpu.d = tickByte b p s ∧ w.fault = none ∧
      sysTickWith p s = liveSeq [checkTapeRead, tickTape, driveInterrupts, commitTick] w := by
  have hserve : serveMemory (takeCpu p s) = takeCpu p s := by
    rw [serveMemory, takeCpu, hmreq]; rfl
  have ht : VdpSettled (seen b (strobes b p.d (atBus p s))) (tickVdp (atBus p s)) :=
    tickVdp_settled (s := atBus p s) hf hm hr hc (congrArg BusLines.as hb) (congrArg BusLines.ds hb)
      (congrArg BusLines.rw hb)
  obtain ⟨hup, hbus, hbyte⟩ := answered_upToTick hb ht
  have htf : (tickVdp (atBus p s)).fault = none :=
    ((congrArg State.fault ht.same :).trans (congrArg State.fault (strobes_frame b p.d (atBus p s)) :)).trans hf
  have hfold : (foldVdp (tickVdp (atBus p s))).fault = none := by rw [foldVdp_eq]; exact htf
  have hw : (foldKeyboard (foldVdp (tickVdp (atBus p s)))).fault = none :=
    (hup.part State.fault).trans ((strobed_fault b p.d s).trans hf)
  refine ⟨_, hup, hbus, hbyte, hw, ?_⟩
  have hstart (f : State → State) (x : State) (hx : x.fault = none) : live f x = f x := live_of_running x f hx
  rw [sysTickWith, liveSeq_cons, hstart _ s hf, liveSeq_cons, hstart _ (takeCpu p s) hf, hserve, liveSeq_cons,
    hstart _ (takeCpu p s) hf, liveSeq_cons, hstart _ (decodeBus (takeCpu p s)) hf, ← atBus, liveSeq_cons,
    hstart _ (atBus p s) hf, liveSeq_cons, hstart _ _ htf, liveSeq_cons, hstart _ _ hfold]

/-- The fault mark set in a block that has none (00_scope R9). -/
def markFault (e : Fault) (s : State) : State := { s with fault := some e }

theorem ignores_markFault (e : Fault) : IgnoresFreeParts (markFault e) := fun _ _ => rfl

theorem checkTapeRead_high (h : s.bus.tapeRd = true) : checkTapeRead s = s := if_pos h

theorem checkTapeRead_low (hf : s.fault = none) (h : s.bus.tapeRd = false) :
    checkTapeRead s = markFault .notImplementedTapeRead s :=
  (if_neg (Bool.eq_false_iff.1 h)).trans (raise_of_running s _ hf)

/-- A tick that selects the tape read path halts after its strobes, uncounted (45_system_tick R311, step 8). -/
theorem sysTickWith_tapeRead (hf : s.fault = none) (hm : ModeAccepted s) (hr : 1 ≤ s.config.ratio)
    (hmreq : p.mreq = false) (hb : busDecode s.config p = b) (hc : NoCommand b s) (hrd : b.tapeRd = false) :
    UpToTick (sysTickWith p s) (markFault .notImplementedTapeRead (strobed b p.d s)) := by
  obtain ⟨w, hup, hbus, -, hw, hrest⟩ := sysTickWith_answered hf hm hr hmreq hb hc
  rw [hrest, liveSeq_cons, live_of_running w _ hw, checkTapeRead_low hw ((congrArg BusLines.tapeRd hbus).trans hrd),
    liveSeq_halted _ _ .notImplementedTapeRead rfl]
  exact hup.map (ignores_markFault _)

/-- Step 11 on what a tick is described by. -/
def countTick (s : State) : State := { s with tickCount := s.tickCount + 1 }

theorem upToTick_commit (s : State) : UpToTick (commitTick (driveInterrupts s)) (countTick s) := by cases s; rfl

/-- Every other tick, unless its codec tick halts, is its strobes, one codec tick and the count. -/
theorem sysTickWith_completes (hf : s.fault = none) (hm : ModeAccepted s) (hr : 1 ≤ s.config.ratio)
    (hmreq : p.mreq = false) (hb : busDecode s.config p = b) (hc : NoCommand b s) (hrd : b.tapeRd = true)
    (hcodec : (tapeTick b.tapeWr (tickByte b p s) (strobed b p.d s)).fault = none) :
    UpToTick (sysTickWith p s) (countTick (tapeTick b.tapeWr (tickByte b p s) (strobed b p.d s))) ∧
      (sysTickWith p s).cpuPins.d = tickByte b p s := by
  obtain ⟨w, hup, hbus, hbyte, hw, hrest⟩ := sysTickWith_answered hf hm hr hmreq hb hc
  have htape : tickTape w = tapeTick b.tapeWr (tickByte b p s) w := by rw [tickTape, hbus, hbyte]
  have hupTape := hup.map (ignores_tapeTick b.tapeWr (tickByte b p s))
  have htf := (hupTape.part State.fault).trans hcodec
  have hints : (driveInterrupts (tapeTick b.tapeWr (tickByte b p s) w)).fault = none := htf
  have hcpu : (tapeTick b.tapeWr (tickByte b p s) w).cpu = w.cpu := (congrArg State.cpu (tapeTick_restore w _ _) :)
  rw [hrest, liveSeq_cons, live_of_running w _ hw, checkTapeRead_high ((congrArg BusLines.tapeRd hbus).trans hrd),
    liveSeq_cons, live_of_running w _ hw, htape, liveSeq_cons, live_of_running _ _ htf, liveSeq_cons,
    live_of_running _ _ hints, liveSeq_nil]
  exact ⟨(upToTick_commit _).trans (hupTape.map fun _ _ => rfl), (congrArg CpuPins.d hcpu).trans hbyte⟩

end

end Sys2Proof.Machine
end

section
/-! PROOFS of the family `30_encoding`, whole bus cycles (30_encoding R129, R130): the first tick of a strobe acts on
the VDP or the codec, every later one finds the levels it left, and the idle ticks put the lines back. -/
namespace Sys2Proof.Machine

/-! ### Ticks in which nothing but time passes -/

/-- `n` ticks in which only the counts go on. -/
def passTime (n : Nat) (s : State) : State :=
  { s with tape := { s.tape with elapsed := s.tape.elapsed + n }, tickCount := s.tickCount + n }

theorem passTime_zero (s : State) : passTime 0 s = s := rfl

theorem ignores_passTime (n : Nat) : IgnoresFreeParts (passTime n) := fun _ _ => rfl

theorem ignores_seen (b : BusLines) : IgnoresFreeParts (seen b) := fun _ _ => rfl

/-- A script can tick the block: nothing halts it, and no tape pulse is in progress. -/
structure Ticking (s : State) : Prop where
  running : s.fault = none
  ratio : 1 ≤ s.config.ratio
  mode : ModeAccepted s
  wire : s.tape.wdLatch = s.tape.wdPrev

/-- What decides whether a script can tick the block. -/
def tickingPart (s : State) : Option Fault × Config × DerivedCfg × Level × Level :=
  (s.fault, s.config, s.cfg, s.tape.wdLatch, s.tape.wdPrev)

theorem ticking_congr {s t : State} (h : tickingPart t = tickingPart s) (hs : Ticking s) : Ticking t := by
  simp only [tickingPart, Prod.mk.injEq] at h
  obtain ⟨hfault, hconfig, hcfg, hlatch, hprev⟩ := h
  exact
    { running := hfault.trans hs.running, ratio := hconfig ▸ hs.ratio
      mode := by rw [ModeAccepted, hcfg]; exact hs.mode, wire := by rw [hlatch, hprev]; exact hs.wire }

theorem BusReady.ticking {s : State} (hs : BusReady s) : Ticking s := ⟨hs.running, hs.ratio, hs.mode, hs.wire⟩

theorem tickingPart_strobed (b : BusLines) (d : Byte) : Leaves tickingPart (strobed b d) := fun s =>
  (congrArg tickingPart (strobes_frame b d (undriven s)) :)

/-- The edge detectors show the levels `b`. -/
def Shows (b : BusLines) (s : State) : Prop := s.prevAs = b.as ∧ s.prevDs = b.ds ∧ s.prevRw = b.rw

theorem seen_of_shows {b : BusLines} {s : State} (h : Shows b s) : seen b s = s := by
  obtain ⟨has, hds, hrw⟩ := h
  rw [seen, ← has, ← hds, ← hrw]

theorem noCommand_of_shows {b : BusLines} {s : State} (h : Shows b s) : NoCommand b s := by
  obtain ⟨-, -, hrw⟩ := h
  cases hb : b.rw with
  | true => exact .inl (hrw.trans hb)
  | false => exact .inr (.inl hb)

/-- Levels that the detectors show already are no edges. -/
theorem strobes_of_shows {b : BusLines} {s : State} (d : Byte) (h : Shows b s) : strobes b d s = s := by
  obtain ⟨has, hds, hrw⟩ := h
  rw [strobes, has, hds, hrw, Bool.and_not_self, Bool.and_not_self, Bool.and_not_self]
  rfl

theorem strobed_of_shows {b : BusLines} {s : State} (d : Byte) (h : Shows b s) :
    strobed b d s = undriven s := by
  have hdriven : Shows b (undriven s) := h
  rw [strobed, strobes_of_shows d hdriven, seen_of_shows hdriven]

/-- A codec tick without a change of level only counts (44_tape_codec R280). -/
theorem tapeTick_sameLevel {w : Level} {d : Byte} {s : State} (hwire : s.tape.wdLatch = s.tape.wdPrev)
    (hlevel : w = true ∨ d.getLsbD s.config.tapeWdataBit = s.tape.wdLatch) :
    tapeTick w d s = { s with tape := { s.tape with elapsed := s.tape.elapsed + 1 } } := by
  have hcount : countAndLatch w d s = { s with tape := { s.tape with elapsed := s.tape.elapsed + 1 } } := by
    rcases hlevel with rfl | hlevel
    · rfl
    · simp only [countAndLatch, onTape, hlevel, ite_self]
  have hsame : (s.tape.wdLatch != s.tape.wdPrev) = false := by rw [hwire, bne_self_eq_false]
  rw [tapeTick, hcount]
  exact congrArg (onlyIf · _ _) hsame

section
variable {b : BusLines} {p : CpuPins} {s x u : State} {k : Nat}

/-- A tick in which no command runs and the tape's line keeps its level is its strobes and the counts. -/
theorem sysTickWith_quiet (hs : Ticking s) (hmreq : p.mreq = false) (hb : busDecode s.config p = b)
    (hc : NoCommand b s) (hrd : b.tapeRd = true)
    (hlevel : b.tapeWr = true ∨ (tickByte b p s).getLsbD s.config.tapeWdataBit = s.tape.wdLatch) :
    UpToTick (sysTickWith p s) (passTime 1 (strobed b p.d s)) ∧ (sysTickWith p s).cpuPins.d = tickByte b p s := by
  have hx := ticking_congr (tickingPart_strobed b p.d s) hs
  have hlevel' : b.tapeWr = true ∨
      (tickByte b p s).getLsbD (strobed b p.d s).config.tapeWdataBit = (strobed b p.d s).tape.wdLatch := by
    have hpart := tickingPart_strobed b p.d s
    simp only [tickingPart, Prod.mk.injEq] at hpart
    obtain ⟨-, hconfig, -, hlatch, -⟩ := hpart
    rwa [hconfig, hlatch]
  have hcodec := tapeTick_sameLevel hx.wire hlevel'
  obtain ⟨hup, hbyte⟩ :=
    sysTickWith_completes hs.running hs.mode hs.ratio hmreq hb hc hrd (by rw [hcodec]; exact hx.running)
  rw [hcodec] at hup
  exact ⟨hup, hbyte⟩

/-- A state that is another one up to time passing and to what runs by itself ticks and shows levels like it. -/
theorem ticking_of_upToTick (hu : UpToTick u (passTime k x)) (hx : Ticking x) : Ticking u :=
  ticking_congr (s := x) (hu.part tickingPart) hx

theorem shows_of_upToTick (hu : UpToTick u (passTime k x)) (hx : Shows b x) : Shows b u := by
  obtain ⟨has, hds, hrw⟩ := hx
  exact ⟨(hu.part State.prevAs).trans has, (hu.part State.prevDs).trans hds, (hu.part State.prevRw).trans hrw⟩

/-- A tick with the levels the detectors show already lets only time pass. -/
theorem sysTickWith_steady (hu : UpToTick u (passTime k x)) (hx : Ticking x) (hshow : Shows b x)
    (hmreq : p.mreq = false) (hb : busDecode x.config p = b) (hrd : b.tapeRd = true)
    (hlevel : b.tapeWr = true ∨ b.kbd = true ∧ p.d.getLsbD x.config.tapeWdataBit = x.tape.wdLatch) :
    UpToTick (sysTickWith p u) (passTime (k + 1) x) := by
  have hshow' := shows_of_upToTick hu hshow
  have hconfig : u.config = x.config := hu.part State.config
  have hlatch : u.tape.wdLatch = x.tape.wdLatch := (congrArg Tape.wdLatch (hu.part State.tape) :)
  have hlevel' : b.tapeWr = true ∨ (tickByte b p u).getLsbD u.config.tapeWdataBit = u.tape.wdLatch := by
    refine hlevel.imp_right fun ⟨hkbd, hbit⟩ => ?_
    have hbyte : tickByte b p u = p.d := by rw [tickByte, strobed_of_shows _ hshow', hkbd]; rfl
    rw [hbyte, hconfig, hlatch, hbit]
  obtain ⟨hup, -⟩ := sysTickWith_quiet (ticking_of_upToTick hu hx) hmreq (hconfig ▸ hb) (noCommand_of_shows hshow') hrd
    hlevel'
  rw [strobed_of_shows _ hshow'] at hup
  exact hup.trans (hu.map (ignores_passTime 1))

/-- Ticks that each let only time pass. -/
theorem repeatTick_passTime {f : State → State}
    (hf : ∀ {u k}, UpToTick u (passTime k x) → UpToTick (f u) (passTime (k + 1) x)) (n : Nat)
    (hu : UpToTick u (passTime k x)) : UpToTick (repeatTick f n u) (passTime (k + n) x) := by
  induction n generalizing u k with
  | zero => exact hu
  | succ n ih =>
    have := ih (hf hu)
    rwa [Nat.add_assoc, Nat.add_comm 1] at this

/-! ### The ticks of a script -/

/-- Without a chip enable every line is high (40_bus_decoder R147). -/
theorem remap_idle (w : Wire) : remap w 0xFF#8 = idleBus := by
  have hline (i : Fin 8) : (0xFF#8).getLsbD i = true := by revert i; decide
  simp only [remap, hline]
  rfl

theorem busDecode_idleTickPins (c : Config) (s : State) : busDecode c (idleTickPins s) = idleBus := remap_idle c.wire

theorem upToTick_bumpFree (s : State) : UpToTick (bumpFree s) s := by cases s; rfl

theorem idleTick_steady (hx : Ticking x) (hidle : Shows idleBus x) (hu : UpToTick u (passTime k x)) :
    UpToTick (idleTick u) (passTime (k + 1) x) := by
  have hbump : UpToTick (bumpFree u) (passTime k x) := (upToTick_bumpFree u).trans hu
  rw [idleTick, live_of_running u _ (ticking_of_upToTick hu hx).running]
  exact sysTickWith_steady hbump hx hidle rfl (busDecode_idleTickPins _ u) rfl (.inl rfl)

/-- Idle ticks put the lines back high. -/
theorem idleTicks_release (hx : Ticking x) (hc : NoCommand idleBus x) (hu : UpToTick u (passTime k x)) (n : Nat) :
    UpToTick (repeatTick idleTick (n + 1) u) (passTime (k + 1 + n) (seen idleBus x)) := by
  have hbump : UpToTick (bumpFree u) (passTime k x) := (upToTick_bumpFree u).trans hu
  have hfirst : UpToTick (idleTick u) (passTime (k + 1) (seen idleBus x)) := by
    rw [idleTick, live_of_running u _ (ticking_of_upToTick hu hx).running]
    have hcu : NoCommand idleBus (bumpFree u) :=
      hc.imp (fun h => (hbump.part State.prevRw).trans h) fun h =>
        h.imp id fun ⟨has, hxq⟩ => ⟨has, (hbump.part State.xqLatch).trans hxq⟩
    obtain ⟨hup, -⟩ := sysTickWith_quiet (ticking_of_upToTick hbump hx) rfl (busDecode_idleTickPins _ u) hcu rfl
      (.inl rfl)
    have hhigh (d : Byte) (s : State) : strobes idleBus d s = s := by
      simp only [strobes, idleBus, Bool.not_true, Bool.and_false, onlyIf_false]
    rw [strobed, hhigh] at hup
    exact hup.trans ((hbump.map (ignores_seen idleBus)).map (ignores_passTime 1))
  have hreleased : Ticking (seen idleBus x) := ticking_congr (s := x) rfl hx
  exact repeatTick_passTime (idleTick_steady hreleased ⟨rfl, rfl, rfl⟩) n hfirst

end

end Sys2Proof.Machine
end

section
/-! PROOFS of the family `30_encoding`, what a bus cycle does on each port (30_encoding R129, 41_vdp_bus_interface R162
to R168, 45_system_tick R311). A cycle is its strobes, up to the time that passes. -/
namespace Sys2Proof.Machine

/-! ### A cycle on any port -/

/-- The ticks of a cycle of proper lengths: a first tick with the strobe, the others with it, a first idle tick, the
others. -/
theorem cycleTicks_of_wf {t : BusTiming} (ht : t.wf = true) :
    ∃ m n, t.strobe = m + 1 ∧ t.idle = n + 1 ∧ cycleTicks t = 1 + m + 1 + n := by
  simp only [BusTiming.wf, Bool.and_eq_true, decide_eq_true_eq] at ht
  exact ⟨t.strobe - 1, t.idle - 1, by omega, by omega, by rw [cycleTicks]; omega⟩

section
variable {b : BusLines} {s x u : State} {t : BusTiming}

/-- The levels of an OUT tick do not depend on the byte, nor those of an IN tick (40_bus_decoder R142). -/
theorem busDecode_outPins (c : Config) (port v : Byte) (s : State) :
    busDecode c (outPins port v s) = busDecode c (portCycle port true) := rfl

theorem busDecode_inPins (c : Config) (port : Byte) (s : State) :
    busDecode c (inPins port s) = busDecode c (portCycle port false) := rfl

/-- Before a cycle every line is high, so a low level is an edge. -/
theorem strobes_of_idle {s : State} (d : Byte) (h : BusIdle s) :
    strobes b d s = onlyIf (!b.rw) (rwFall d) (onlyIf (!b.ds) (dsFall b.rw) (onlyIf (!b.as) (asFall d b.ds) s)) := by
  obtain ⟨has, hds, hrw⟩ := h
  rw [strobes, has, hds, hrw, Bool.true_and, Bool.true_and, Bool.true_and]

/-- A cycle that leaves the VDP's lines high is none for the VDP. -/
theorem shows_of_idle (has : b.as = true) (hds : b.ds = true) (hrw : b.rw = true) (h : BusIdle s) : Shows b s := by
  rwa [Shows, has, hds, hrw]

theorem noCommand_of_idle (b : BusLines) (h : BusIdle s) : NoCommand b s := by
  obtain ⟨-, -, hrw⟩ := h
  exact .inl hrw

/-- The end of a cycle: after the first tick of the strobe left `x`, the others let time pass and the idle ticks put the
lines back. -/
theorem cycle_after_first {f : State → State} {k : Nat} (hx : Ticking x) (hc : NoCommand idleBus x)
    (hf : ∀ {u k}, UpToTick u (passTime k x) → UpToTick (f u) (passTime (k + 1) x)) (hu : UpToTick u (passTime k x))
    (m n : Nat) :
    UpToTick (repeatTick idleTick (n + 1) (repeatTick f m u)) (passTime (k + m + 1 + n) (seen idleBus x)) :=
  idleTicks_release hx hc (repeatTick_passTime hf m hu) n

/-- A tick of an OUT whose levels the detectors show already. -/
theorem outTick_steady {port v : Byte} {k : Nat} (hx : Ticking x) (hshow : Shows b x)
    (hb : busDecode x.config (portCycle port true) = b) (hrd : b.tapeRd = true)
    (hlevel : b.tapeWr = true ∨ b.kbd = true ∧ v.getLsbD x.config.tapeWdataBit = x.tape.wdLatch)
    (hu : UpToTick u (passTime k x)) : UpToTick (outTick port v u) (passTime (k + 1) x) := by
  rw [outTick, live_of_running u _ (ticking_of_upToTick hu hx).running]
  exact sysTickWith_steady hu hx hshow rfl ((busDecode_outPins _ _ v u).trans hb) hrd hlevel

theorem inTick_steady {port : Byte} {k : Nat} (hx : Ticking x) (hshow : Shows b x)
    (hb : busDecode x.config (portCycle port false) = b) (hrd : b.tapeRd = true) (hwr : b.tapeWr = true)
    (hu : UpToTick u (passTime k x)) : UpToTick (inTick port u) (passTime (k + 1) x) := by
  rw [inTick, live_of_running u _ (ticking_of_upToTick hu hx).running]
  exact sysTickWith_steady hu hx hshow rfl ((busDecode_inPins _ _ u).trans hb) hrd (.inl hwr)

theorem shows_strobed (b : BusLines) (d : Byte) (s : State) : Shows b (strobed b d s) := ⟨rfl, rfl, rfl⟩

/-- The strobes of a cycle, once the lines are high again. -/
theorem seen_strobed_upToTick {y : State} {d : Byte} (hy : UpToTick (strobes b d (undriven s)) y)
    (hidle : BusIdle y) : UpToTick (seen idleBus (strobed b d s)) y := by
  have hshow : Shows idleBus y := hidle
  have hseen := hy.map (ignores_seen idleBus)
  rwa [seen_of_shows hshow] at hseen

theorem strobed_config (b : BusLines) (d : Byte) (s : State) : (strobed b d s).config = s.config :=
  (congrArg Prod.fst (congrArg Prod.snd (tickingPart_strobed b d s)) :)

/-- An OUT cycle on a port with these levels leaves `y`, which its strobes make of the block, and time has passed; the
tape's line keeps its level. -/
theorem busOut_upToTick {port v : Byte} {y : State} (hs : BusReady s) (ht : t.wf = true)
    (hb : busDecode s.config (portCycle port true) = b) (hrd : b.tapeRd = true) (hwr : b.tapeWr = true)
    (hc : NoCommand idleBus (strobed b v s)) (hy : UpToTick (strobes b v (undriven s)) y)
    (hidle : BusIdle y) : UpToTick (busOut port v t s) (passTime (cycleTicks t) y) := by
  obtain ⟨m, n, hm, hn, hticks⟩ := cycleTicks_of_wf ht
  have hx := ticking_congr (tickingPart_strobed b v s) hs.ticking
  have hfirst : UpToTick (outTick port v s) (passTime 1 (strobed b v s)) := by
    rw [outTick, live_of_running s _ hs.running]
    exact (sysTickWith_quiet (p := outPins port v s) hs.ticking rfl hb (noCommand_of_idle b hs.idle) hrd (.inl hwr)).1
  have hsteady {u : State} {k : Nat} (hu : UpToTick u (passTime k (strobed b v s))) :=
    outTick_steady (port := port) (v := v) hx (shows_strobed b v s) ((strobed_config b v s).symm ▸ hb) hrd (.inl hwr) hu
  rw [busOut, hm, hn, hticks, repeatTick]
  exact (cycle_after_first hx hc hsteady hfirst m n).trans
    ((seen_strobed_upToTick hy hidle).map (ignores_passTime _))

/-- What an IN on a port with these levels returns: the byte of its first tick (R129). -/
def readResult (b : BusLines) (port : Byte) (s : State) : HostResult := .byteRead (tickByte b (inPins port s) s)

/-- An IN cycle on a port with these levels leaves `y`, which its strobes make of the block, and the byte of its first
tick as the result. -/
theorem busIn_upToTick {port : Byte} {y : State} (hs : BusReady s) (ht : t.wf = true)
    (hb : busDecode s.config (portCycle port false) = b) (hrd : b.tapeRd = true) (hwr : b.tapeWr = true)
    (hrw : b.rw = true) (hy : UpToTick (strobes b s.cpuPins.d (undriven s)) y) (hidle : BusIdle y) :
    UpToTick (busIn port t s)
      (passTime (cycleTicks t) (setResult (readResult b port s) y)) := by
  obtain ⟨m, n, hm, hn, hticks⟩ := cycleTicks_of_wf ht
  have hignore (r : HostResult) : IgnoresFreeParts (setResult r) := fun _ _ => rfl
  have hx : Ticking (setResult (readResult b port s) (strobed b s.cpuPins.d s)) :=
    ticking_congr (tickingPart_strobed b s.cpuPins.d s) hs.ticking
  have hfirst : UpToTick (live takeRead (inTick port s))
      (passTime 1 (setResult (readResult b port s) (strobed b s.cpuPins.d s))) := by
    obtain ⟨hup, hbyte⟩ :=
      sysTickWith_quiet (p := inPins port s) hs.ticking rfl hb (noCommand_of_idle b hs.idle) hrd (.inl hwr)
    have hf : (sysTickWith (inPins port s) s).fault = none := (hup.part State.fault).trans hx.running
    rw [inTick, live_of_running s _ hs.running, live_of_running _ _ hf, takeRead, hbyte]
    exact hup.map (hignore _)
  have hsteady {u : State} {k : Nat}
      (hu : UpToTick u (passTime k (setResult (readResult b port s) (strobed b s.cpuPins.d s)))) :=
    inTick_steady (port := port) (b := b) hx (shows_strobed b s.cpuPins.d s)
      ((strobed_config b s.cpuPins.d s).symm ▸ hb) hrd hwr hu
  rw [busIn, hm, hn, hticks, Nat.add_sub_cancel]
  exact (cycle_after_first hx (.inl hrw) hsteady hfirst m n).trans
    (((seen_strobed_upToTick hy hidle).map (hignore _)).map (ignores_passTime _))

end

/-! ### The ports -/

section
variable {s y u : State} {t : BusTiming}

/-- What `OnlyTimePasses` speaks of. -/
def scriptPart (s : State) :
    (Option Fault × Nat) × (Level × Level × Level) × (Vector Byte 8 × DerivedCfg × Memory) × Tape ×
      (Config × List OpWord × Bool) :=
  ((s.fault, s.tickCount), (s.prevAs, s.prevDs, s.prevRw), (s.ir, s.cfg, s.vram), s.tape,
    (s.config, s.script, s.stopFlag))

theorem busIdle_congr (h : scriptPart y = scriptPart s) (hs : BusIdle s) : BusIdle y := by
  simp only [scriptPart, Prod.mk.injEq] at h
  obtain ⟨-, ⟨has, hds, hrw⟩, -⟩ := h
  rwa [BusIdle, has, hds, hrw]

/-- A cycle that leaves `y`, and `y` differs from the block before in no part that `OnlyTimePasses` speaks of. -/
theorem onlyTimePasses_of_upToTick {n : Nat} (hs : BusReady s) (hu : UpToTick u (passTime n y))
    (hy : scriptPart y = scriptPart s) : OnlyTimePasses n s u := by
  have hidle := busIdle_congr hy hs.idle
  have hpart : scriptPart u = scriptPart (passTime n y) := hu.part scriptPart
  simp only [scriptPart, Prod.mk.injEq] at hy hpart
  obtain ⟨⟨hfault, hcount⟩, -, ⟨hir, hcfg, hvram⟩, htape, hconfig, hscript, hstop⟩ := hy
  obtain ⟨⟨ufault, ucount⟩, ⟨uas, uds, urw⟩, ⟨uir, ucfg, uvram⟩, utape, uconfig, uscript, ustop⟩ := hpart
  refine ⟨ufault.trans (hfault.trans hs.running), ucount.trans (congrArg (· + n) hcount), ?_, uir.trans hir,
    ucfg.trans hcfg, uvram.trans hvram, ?_, uconfig.trans hconfig, uscript.trans hscript, ustop.trans hstop⟩
  · rw [BusIdle, uas, uds, urw]; exact hidle
  · rw [utape, passTime, htape]

theorem sixLines_eq {b : BusLines} {as ds rw kbd tapeRd tapeWr : Level}
    (h : sixLines b = [as, ds, rw, kbd, tapeRd, tapeWr]) :
    b.as = as ∧ b.ds = ds ∧ b.rw = rw ∧ b.kbd = kbd ∧ b.tapeRd = tapeRd ∧ b.tapeWr = tapeWr := by
  simpa [sixLines] using h

/-- IDLE lets only time pass. -/
theorem busIdle_upToTick (hs : BusReady s) (k : Nat) : UpToTick (busIdle k s) (passTime k s) := by
  have hsteps := repeatTick_passTime (idleTick_steady hs.ticking hs.idle) k (upToTick_refl (passTime 0 s))
  rwa [Nat.zero_add] at hsteps

/-- OUT of the address port latches the byte (R162). -/
theorem busOut_portAs (hs : BusReady s) (ht : t.wf = true) (v : Byte) :
    UpToTick (busOut s.config.portAs v t s) (passTime (cycleTicks t) (asFall v true s)) := by
  obtain ⟨hlines, -⟩ := hs.ports
  obtain ⟨has, hds, hrw, -, hrd, hwr⟩ := sixLines_eq hlines
  refine busOut_upToTick hs ht rfl hrd hwr (.inl hrw) ?_ hs.idle
  have hidle : BusIdle (undriven s) := hs.idle
  rw [strobes_of_idle v hidle, has, hds, hrw]
  exact (upToTick_undriven s).map (f := asFall v true) fun _ _ => rfl

/-- A write strobe changes the direct registers only (R165). -/
theorem rwFall_eq (v : Byte) (s : State) : ∃ r, rwFall v s = { s with r := r } := by
  cases h : s.addrLatch.getLsbD 5 with
  | true => exact ⟨(setReg (latchedReg s) v s).r, by rw [rwFall, h]; rfl⟩
  | false => exact ⟨s.r, by rw [rwFall, h]; rfl⟩

theorem getReg_rwFall (v : Byte) (s : State) (j : BitVec 3) :
    getReg (rwFall v s) j = if s.addrLatch.getLsbD 5 = true ∧ j = latchedReg s then v else getReg s j := by
  cases h : s.addrLatch.getLsbD 5 with
  | true => rw [rwFall, h, onlyIf_true, getReg_setReg]; simp only [true_and]
  | false => rw [rwFall, h, onlyIf_false]; simp only [Bool.false_eq_true, false_and, if_false]

/-- OUT of the data port stores the byte under the latched address (R165), where it asks for no command. -/
theorem busOut_portDs (hs : BusReady s) (ht : t.wf = true) (v : Byte) (hxq : s.xqLatch = false) :
    UpToTick (busOut s.config.portDs v t s) (passTime (cycleTicks t) (rwFall v s)) := by
  obtain ⟨-, -, hlines, -⟩ := hs.ports
  obtain ⟨has, hds, hrw, -, hrd, hwr⟩ := sixLines_eq hlines
  have hignore : IgnoresFreeParts (rwFall v) := fun u s =>
    commutes_onlyIf (g := restoreTick u) (f := setReg (latchedReg s) v) (s.addrLatch.getLsbD 5) (fun _ => rfl) s
  have hxq' : (strobed (busDecode s.config (portCycle s.config.portDs true)) v s).xqLatch = false :=
    (strobes_xqLatch (s := undriven s) v has).trans hxq
  have hidle : BusIdle (undriven s) := hs.idle
  refine busOut_upToTick hs ht rfl hrd hwr (.inr (.inr ⟨rfl, hxq'⟩)) ?_ ?_
  · rw [strobes_of_idle v hidle, has, hds, hrw]
    exact (upToTick_undriven s).map hignore
  · obtain ⟨r, hr⟩ := rwFall_eq v s
    rw [hr]
    exact hs.idle

/-- IN of the address port answers the keyboard's byte (45_system_tick R314). -/
theorem busIn_portAs (hs : BusReady s) (ht : t.wf = true) :
    UpToTick (busIn s.config.portAs t s)
      (passTime (cycleTicks t) (setResult (.byteRead (keyAnswer s (s.config.portAs.setWidth 16))) s)) := by
  obtain ⟨-, -, -, hlines, -⟩ := hs.ports
  obtain ⟨has, hds, hrw, hkbd, hrd, hwr⟩ := sixLines_eq hlines
  have hidle : BusIdle (undriven s) := hs.idle
  have hresult : readResult (busDecode s.config (portCycle s.config.portAs false)) s.config.portAs s =
      .byteRead (keyAnswer s (s.config.portAs.setWidth 16)) := by
    rw [readResult, tickByte, hkbd]; rfl
  rw [← hresult]
  refine busIn_upToTick hs ht rfl hrd hwr hrw ?_ hs.idle
  rw [strobes_of_idle _ hidle, has, hds, hrw]
  exact upToTick_undriven s

/-- What an IN of the data port returns: the register under the latched address if it answers, or the byte the CPU's
pins hold (R163, R168). -/
def dataPortByte (s : State) : Byte := if s.addrLatch.getLsbD 4 = false then busReadValue s else s.cpuPins.d

/-- An IN of the data port logs a read of register 0 (R336). -/
def logDataRead (s : State) : State :=
  { s with
      log := if s.addrLatch.getLsbD 4 = false ∧ latchedReg s = 0 then s.log ++ [.r0PlaceholderRead] else s.log }

theorem busIn_portDs (hs : BusReady s) (ht : t.wf = true) :
    UpToTick (busIn s.config.portDs t s)
      (passTime (cycleTicks t) (setResult (.byteRead (dataPortByte s)) (logDataRead s))) := by
  obtain ⟨-, hlines, -⟩ := hs.ports
  obtain ⟨has, hds, hrw, hkbd, hrd, hwr⟩ := sixLines_eq hlines
  have hidle : BusIdle (undriven s) := hs.idle
  have haddr : (undriven s).addrLatch = s.addrLatch := rfl
  have hstrobes (d : Byte) : strobes (busDecode s.config (portCycle s.config.portDs false)) d (undriven s) =
      if s.addrLatch.getLsbD 4 = false then answerRead (undriven s) else undriven s := by
    rw [strobes_of_idle _ hidle, has, hds, hrw]
    refine (dsFall_eq true (undriven s)).trans ?_
    simp only [haddr, Bool.true_and, Bool.not_eq_true']
  have hresult : readResult (busDecode s.config (portCycle s.config.portDs false)) s.config.portDs s =
      .byteRead (dataPortByte s) := by
    rw [readResult, tickByte, strobed, hstrobes, hkbd, if_neg (by decide), dataPortByte]
    split <;> rfl
  have hlog : UpToTick (answerRead (undriven s))
      { s with log := if latchedReg s = 0 then s.log ++ [.r0PlaceholderRead] else s.log } := by cases s; rfl
  rw [← hresult]
  refine busIn_upToTick hs ht rfl hrd hwr hrw ?_ hs.idle
  rw [hstrobes, logDataRead]
  split
  · next h =>
    simp only [and_iff_right h]
    exact hlog
  · next h =>
    rw [if_neg fun hr => h hr.1]
    exact upToTick_undriven s

/-- IN of the tape port halts in its first tick and returns nothing (45_system_tick R311, step 8). -/
theorem busIn_portTape (hs : BusReady s) :
    UpToTick (busIn s.config.portTape t s) (markFault .notImplementedTapeRead s) := by
  obtain ⟨-, -, -, -, hlines, -⟩ := hs.ports
  obtain ⟨b, hb⟩ : ∃ b, busDecode s.config (portCycle s.config.portTape false) = b := ⟨_, rfl⟩
  rw [hb] at hlines
  obtain ⟨has, hds, hrw, -, hrd, -⟩ := sixLines_eq hlines
  have hshow := shows_of_idle has hds hrw hs.idle
  have hfirst : UpToTick (inTick s.config.portTape s) (markFault .notImplementedTapeRead s) := by
    have hup := sysTickWith_tapeRead (p := inPins s.config.portTape s) hs.running hs.mode hs.ratio rfl hb
      (noCommand_of_shows hshow) hrd
    rw [strobed_of_shows _ hshow] at hup
    rw [inTick, live_of_running s _ hs.running]
    exact hup.trans ((upToTick_undriven s).map (ignores_markFault _))
  have hhalt : (inTick s.config.portTape s).fault = some .notImplementedTapeRead := hfirst.part State.fault
  rw [busIn, live_of_halted _ _ _ hhalt, repeatTick_fixed _ _ (inTick_halted _ hhalt),
    repeatTick_fixed _ _ (idleTick_halted hhalt)]
  exact hfirst

end

/-- Settles O56: a write cycle leaves what its strobes make of the VDP, and idle ticks let time pass. -/
theorem writeCyclesReachTheVdp : Obligations.WriteCyclesReachTheVdp := by
  intro s v t k hs ht
  refine ⟨?_, ?_, fun hxq => ?_⟩
  · have hu := busIdle_upToTick hs k
    exact ⟨_, rfl, onlyTimePasses_of_upToTick hs hu rfl, hu.part State.r, hu.part State.log, hu.part State.result,
      hu.part State.addrLatch, hu.part State.xqLatch⟩
  · have hu := busOut_portAs hs ht v
    exact ⟨_, exec_out s ht _ v, onlyTimePasses_of_upToTick hs hu rfl, hu.part State.r, hu.part State.log,
      hu.part State.result, hu.part State.addrLatch, hu.part State.xqLatch, hu.part State.dsLatch⟩
  · have hu := busOut_portDs hs ht v hxq
    have hreg (j : BitVec 3) := (hu.part (getReg · j)).trans (getReg_rwFall v s j)
    obtain ⟨r, hr⟩ := rwFall_eq v s
    rw [hr] at hu
    exact ⟨_, exec_out s ht _ v, onlyTimePasses_of_upToTick hs hu rfl, hu.part State.log, hu.part State.result,
      hu.part State.addrLatch, (hu.part State.xqLatch).trans hxq, hreg⟩

/-- Settles O57: a read cycle returns the byte that the first tick leaves in the CPU's record. -/
theorem readCyclesReturnTheSelectedSource : Obligations.ReadCyclesReturnTheSelectedSource := by
  intro s t hs ht n answered
  refine ⟨?_, ?_, ?_⟩
  · have hu := busIn_portDs hs ht
    have hresult : (busIn s.config.portDs t s).result =
        .byteRead (if answered then if n = 0 then 0x00 else getReg s n else s.cpuPins.d) := hu.part State.result
    have hlog : (busIn s.config.portDs t s).log =
        if answered ∧ n = 0 then s.log ++ [.r0PlaceholderRead] else s.log := hu.part State.log
    refine ⟨_, exec_inp s ht _, onlyTimePasses_of_upToTick hs hu rfl, hu.part State.r, fun ha hn => ?_, fun ha hn => ?_,
      fun ha => ?_⟩
    · rw [hresult, hlog, if_pos ha, if_pos hn, if_pos ⟨ha, hn⟩]
      exact ⟨rfl, rfl⟩
    · rw [hresult, hlog, if_pos ha, if_neg hn, if_neg fun h => hn h.2]
      exact ⟨rfl, rfl⟩
    · rw [hresult, hlog, if_neg ha, if_neg fun h => ha h.1]
      exact ⟨rfl, rfl⟩
  · have hu := busIn_portAs hs ht
    exact ⟨_, exec_inp s ht _, onlyTimePasses_of_upToTick hs hu rfl, hu.part State.r, hu.part State.log,
      hu.part State.result⟩
  · have hu := busIn_portTape (t := t) hs
    exact ⟨_, exec_inp s ht _, hu.part State.fault, hu.part State.result, hu.part State.tickCount, hu.part State.tape,
      hu.part State.r, hu.part State.vram⟩

end Sys2Proof.Machine
end

section
/-! PROOFS of the family `30_encoding`, the write-data line (30_encoding R130, 44_tape_codec R280): the first tick of a
KOUT that changes the level is the toggle; the toggle does not see the measure that the tick counts. -/
namespace Sys2Proof.Machine

/-! ### The pulse measure -/

/-- The codec with another measure and other levels of the line (44_tape_codec R280). -/
def setMeasure (elapsed : Nat) (latch prev : Level) (t : Tape) : Tape :=
  { t with elapsed := elapsed, wdLatch := latch, wdPrev := prev }

section
variable (e : Nat) (l p : Level)

theorem addBit_setMeasure (b : Bool) (t : Tape) : addBit b (setMeasure e l p t) = setMeasure e l p (addBit b t) := by
  simp only [addBit]
  rw [apply_ite (setMeasure e l p)]
  rfl

theorem stepSync_setMeasure (c : Config) (t : Tape) :
    stepSync c (setMeasure e l p t) = setMeasure e l p (stepSync c t) := by
  simp only [stepSync]
  rw [apply_ite (setMeasure e l p)]
  rfl

/-- No pulse operation reads or writes the measure (44_tape_codec R281). -/
theorem runPulse_setMeasure : Commutes (onTape (setMeasure e l p)) runPulse := fun s => by
  have hsame : selectPulse (onTape (setMeasure e l p) s).config (onTape (setMeasure e l p) s).tape =
      selectPulse s.config s.tape := rfl
  simp only [runPulse, hsame]
  cases selectPulse s.config s.tape with
  | sync => exact congrArg (fun t => onTape (fun _ => t) s) (stepSync_setMeasure e l p s.config s.tape)
  | bit0 => exact congrArg (fun t => onTape (fun _ => t) s) (addBit_setMeasure e l p false (shift 2 s.tape))
  | bit1 => exact congrArg (fun t => onTape (fun _ => t) s) (addBit_setMeasure e l p true (shift 4 s.tape))
  | notimpl =>
    simp only [pulseNotimpl, raise, onTape_fault]
    cases s.fault <;> rfl
  | _ => rfl

theorem toggle_setMeasure (d : Nat) : Commutes (onTape (setMeasure e l p)) (toggle d) := fun s => by
  have hpush : Commutes (onTape (setMeasure e l p)) (onTape (push s.config d)) := fun _ => rfl
  exact (congrArg runPulse (commutes_onlyIf _ hpush s)).trans (runPulse_setMeasure e l p _)

end

/-- A codec state with behaviour selects an operation that raises no fault (44_tape_codec R281). -/
theorem selectPulse_ne_notimpl {c : Config} {t : Tape} (h1 : t.state ≠ .awaitSync2) (h2 : t.state ≠ .payload) :
    selectPulse c t ≠ .notimpl := by
  cases hst : t.state with
  | awaitSync2 => exact absurd hst h1
  | payload => exact absurd hst h2
  | headerBits =>
    simp only [selectPulse, hst]
    repeat' split
    all_goals exact nofun
  | error =>
    simp only [selectPulse, hst]
    split <;> exact nofun
  | awaitSync1 | finished => simp only [selectPulse, hst]; exact nofun

section
variable {s : State}

theorem toggle_running (d : Nat) (hf : s.fault = none) (h1 : s.tape.state ≠ .awaitSync2)
    (h2 : s.tape.state ≠ .payload) : (toggle d s).fault = none := by
  have hpush (f : Tape → Tape) (hstate : (f s.tape).state = s.tape.state) : (runPulse (onTape f s)).fault = none := by
    have hsel : selectPulse s.config (f s.tape) ≠ .notimpl :=
      selectPulse_ne_notimpl (hstate ▸ h1) (hstate ▸ h2)
    simp only [runPulse, onTape_config, onTape_tape]
    cases hop : selectPulse s.config (f s.tape) with
    | notimpl => exact absurd hop hsel
    | _ => exact hf
  simp only [toggle]
  cases pushesSample s.tape.state with
  | true => exact hpush (push s.config d) rfl
  | false => exact hpush id rfl

/-- What the first tick of a KOUT that changes the level makes of the block: one toggle with the ticks since the last
one, and the measure starts again (44_tape_codec R280). -/
def toggledTo (level : Level) (s : State) : State :=
  onTape (setMeasure 0 level level) (toggle (s.tape.elapsed + 1) s)

theorem tapeTick_changedLevel {d : Byte} {level : Level} (hf : s.fault = none) (hwire : s.tape.wdLatch = s.tape.wdPrev)
    (h1 : s.tape.state ≠ .awaitSync2) (h2 : s.tape.state ≠ .payload)
    (hlevel : d.getLsbD s.config.tapeWdataBit = level) (hchange : level ≠ s.tape.wdLatch) :
    tapeTick false d s = toggledTo level s := by
  have hcount : countAndLatch false d s = onTape (setMeasure (s.tape.elapsed + 1) level s.tape.wdPrev) s := by
    rw [← hlevel]; rfl
  have hne : (level != s.tape.wdPrev) = true := by rwa [bne_iff_ne, ← hwire]
  rw [tapeTick, hcount]
  refine (congrArg (onlyIf · _ _) hne).trans ?_
  have hstart : (onTape (setMeasure (s.tape.elapsed + 1) level s.tape.wdPrev) s).fault = none := hf
  have htoggle : toggle (s.tape.elapsed + 1) (onTape (setMeasure (s.tape.elapsed + 1) level s.tape.wdPrev) s) =
      onTape (setMeasure (s.tape.elapsed + 1) level s.tape.wdPrev) (toggle (s.tape.elapsed + 1) s) :=
    toggle_setMeasure _ _ _ _ s
  have hend : (onTape (setMeasure (s.tape.elapsed + 1) level s.tape.wdPrev) (toggle (s.tape.elapsed + 1) s)).fault =
      none := toggle_running _ hf h1 h2
  rw [onlyIf_true, liveSeq_cons, live_of_running _ _ hstart]
  refine (congrArg (liveSeq [restartMeasure]) htoggle).trans ?_
  rw [liveSeq_cons, live_of_running _ _ hend]
  rfl

/-- A toggle leaves the rest of the block, so a script can go on ticking. -/
theorem toggledTo_restoreTape (level : Level) (s : State) : restoreTape s (toggledTo level s) = s :=
  toggle_restore s _

theorem ticking_toggledTo (level : Level) (hs : Ticking s) (h1 : s.tape.state ≠ .awaitSync2)
    (h2 : s.tape.state ≠ .payload) : Ticking (toggledTo level s) := by
  have hrest := toggledTo_restoreTape level s
  have hconfig : (toggledTo level s).config = s.config := (congrArg State.config hrest :)
  have hcfg : (toggledTo level s).cfg = s.cfg := (congrArg State.cfg hrest :)
  exact
    { running := toggle_running _ hs.running h1 h2, ratio := hconfig ▸ hs.ratio
      mode := by rw [ModeAccepted, hcfg]; exact hs.mode, wire := rfl }

/-! ### The tape port -/

variable {t : BusTiming} {v : Byte}

/-- What a KOUT leaves after its first tick, which made `x` of the block with the new level, is `x` with time passed. -/
theorem busOut_portTape_after_first {x : State} {k : Nat} (hs : BusReady s) (ht : t.wf = true) (hx : Ticking x)
    (hidle : BusIdle x) (hconfig : x.config = s.config)
    (hlevel : v.getLsbD s.config.tapeWdataBit = x.tape.wdLatch)
    (hfirst : UpToTick (outTick s.config.portTape v s) (passTime k x)) :
    UpToTick (busOut s.config.portTape v t s) (passTime (k + (cycleTicks t - 1)) x) := by
  obtain ⟨-, -, -, -, -, hlines⟩ := hs.ports
  obtain ⟨has, hds, hrw, hkbd, hrd, -⟩ := sixLines_eq hlines
  obtain ⟨m, n, hm, hn, hticks⟩ := cycleTicks_of_wf ht
  have hshow := shows_of_idle has hds hrw hidle
  have hsteady {u : State} {k : Nat} (hu : UpToTick u (passTime k x)) :=
    outTick_steady (port := s.config.portTape) (v := v) hx hshow (hconfig ▸ rfl) hrd
      (.inr ⟨hkbd, hconfig ▸ hlevel⟩) hu
  have hidleShow : Shows idleBus x := hidle
  have hcycle := cycle_after_first hx (noCommand_of_shows hidleShow) hsteady hfirst m n
  have hsum : k + (cycleTicks t - 1) = k + m + 1 + n := by omega
  rw [busOut, hm, hn, hsum, repeatTick]
  rwa [seen_of_shows hidleShow] at hcycle

/-- The first tick of a KOUT: the VDP sees nothing of it, and the codec sees the byte. -/
theorem outTick_portTape (hs : BusReady s) (hcodec : (tapeTick false v s).fault = none) :
    UpToTick (outTick s.config.portTape v s) (countTick (tapeTick false v s)) := by
  obtain ⟨-, -, -, -, -, hlines⟩ := hs.ports
  obtain ⟨b, hb⟩ : ∃ b, busDecode s.config (portCycle s.config.portTape true) = b := ⟨_, rfl⟩
  rw [hb] at hlines
  obtain ⟨has, hds, hrw, hkbd, hrd, hwr⟩ := sixLines_eq hlines
  have hshow := shows_of_idle has hds hrw hs.idle
  have hbyte : tickByte b (outPins s.config.portTape v s) s = v := by
    rw [tickByte, strobed_of_shows _ hshow, hkbd]; rfl
  have hup : UpToTick (tapeTick b.tapeWr v (strobed b v s)) (tapeTick false v s) := by
    rw [hwr, strobed_of_shows _ hshow]
    exact (upToTick_undriven s).map (ignores_tapeTick _ _)
  have htick := (sysTickWith_completes (p := outPins s.config.portTape v s) hs.running hs.mode hs.ratio rfl hb
    (noCommand_of_shows hshow) hrd (by rw [hbyte]; exact (hup.part State.fault).trans hcodec)).1
  rw [hbyte] at htick
  rw [outTick, live_of_running s _ hs.running]
  exact htick.trans (hup.map fun _ _ => rfl)

/-- A KOUT of the level the line has lets only time pass. -/
theorem busOut_portTape_same (hs : BusReady s) (ht : t.wf = true)
    (hlevel : v.getLsbD s.config.tapeWdataBit = s.tape.wdLatch) :
    UpToTick (busOut s.config.portTape v t s) (passTime (cycleTicks t) s) := by
  have hcodec := tapeTick_sameLevel (w := false) (d := v) hs.wire (.inr hlevel)
  have hfirst := outTick_portTape hs (v := v) (by rw [hcodec]; exact hs.running)
  rw [hcodec] at hfirst
  have hpass : UpToTick (outTick s.config.portTape v s) (passTime 1 s) := hfirst
  have hall := busOut_portTape_after_first hs ht hs.ticking hs.idle rfl hlevel hpass
  obtain ⟨m, n, -, -, hticks⟩ := cycleTicks_of_wf ht
  have hsum : 1 + (cycleTicks t - 1) = cycleTicks t := by omega
  rwa [hsum] at hall

/-- A KOUT of the other level is one toggle, and the measure starts again. -/
theorem busOut_portTape_changed {level : Level} (hs : BusReady s) (ht : t.wf = true) (h1 : s.tape.state ≠ .awaitSync2)
    (h2 : s.tape.state ≠ .payload) (hlevel : v.getLsbD s.config.tapeWdataBit = level)
    (hchange : level ≠ s.tape.wdLatch) :
    UpToTick (busOut s.config.portTape v t s) (passTime (cycleTicks t - 1) (countTick (toggledTo level s))) := by
  have hcodec := tapeTick_changedLevel (d := v) hs.running hs.wire h1 h2 hlevel hchange
  have hx := ticking_toggledTo level hs.ticking h1 h2
  have hrest := toggledTo_restoreTape level s
  have hlatch : (toggledTo level s).tape.wdLatch = level := rfl
  have hfirst := outTick_portTape hs (v := v) (by rw [hcodec]; exact hx.running)
  rw [hcodec, ← passTime_zero (countTick (toggledTo level s))] at hfirst
  generalize toggledTo level s = x at *
  have hidle : BusIdle (restoreTape s x) := by rw [hrest]; exact hs.idle
  have hconfig : x.config = s.config := (congrArg State.config hrest :)
  have hall := busOut_portTape_after_first hs ht (x := countTick x) (ticking_congr (s := x) rfl hx) hidle hconfig
    (hlevel.trans hlatch.symm) hfirst
  rwa [Nat.zero_add] at hall

end

/-- Settles O60: a KOUT is its first tick, which toggles or does not, and then lets time pass. -/
theorem tapeWriteTogglesTheLine : Obligations.TapeWriteTogglesTheLine := by
  intro s b t hs ht h1 h2 level toggled
  by_cases hsame : level = s.tape.wdLatch
  · have hu := busOut_portTape_same hs ht hsame
    have hpass := onlyTimePasses_of_upToTick hs hu rfl
    obtain ⟨hfault, hcount, hidle, hir, hcfg, hvram, -⟩ := id hpass
    exact ⟨_, exec_kout s ht b, hfault, hcount, hidle, hu.part State.r, hir, hcfg, hvram, hu.part State.result,
      fun _ => ⟨hpass, hu.part State.log⟩, fun hne => absurd hsame hne⟩
  · have hu := busOut_portTape_changed hs ht h1 h2 rfl hsame
    have hrest := toggledTo_restoreTape level s
    have hfault := (ticking_toggledTo level hs.ticking h1 h2).running
    have hlog : (toggledTo level s).log = toggled.log := rfl
    have htape : (toggledTo level s).tape = setMeasure 0 level level toggled.tape := rfl
    obtain ⟨m, n, -, -, hticks⟩ := cycleTicks_of_wf ht
    generalize toggledTo level s = x at *
    have hcount : x.tickCount = s.tickCount := (congrArg State.tickCount hrest :)
    have hidle : BusIdle (restoreTape s x) := by rw [hrest]; exact hs.idle
    have hticksum : s.tickCount + 1 + (cycleTicks t - 1) = s.tickCount + cycleTicks t := by omega
    refine ⟨_, exec_kout s ht b, (hu.part State.fault).trans hfault, ?_, ?_,
      (hu.part State.r).trans (congrArg State.r hrest :), (hu.part State.ir).trans (congrArg State.ir hrest :),
      (hu.part State.cfg).trans (congrArg State.cfg hrest :), (hu.part State.vram).trans (congrArg State.vram hrest :),
      (hu.part State.result).trans (congrArg State.result hrest :), fun heq => absurd heq hsame, fun _ =>
        ⟨(hu.part State.log).trans hlog, ?_⟩⟩
    · rw [hu.part State.tickCount, ← hticksum, ← hcount]; rfl
    · exact shows_of_upToTick (b := idleBus) hu hidle
    · have hpassed : (passTime (cycleTicks t - 1) (countTick x)).tape =
          { x.tape with elapsed := x.tape.elapsed + (cycleTicks t - 1) } := rfl
      rw [hu.part State.tape, hpassed, htape]
      simp only [setMeasure, Nat.zero_add]

end Sys2Proof.Machine
end

section
/-! PROOFS of the family `40_bus_decoder` (40_bus_decoder R140 to R152). One lemma says which line of the decode is
low; the chip enable and the index are read off the pin record, and the outputs are the lines wired to them. -/
namespace Sys2Proof.Machine

/-! ### The chip enable and the index -/

section
variable (c : Config) (p : CpuPins)

theorem chipEnable_iff :
    chipEnable c p = true ↔ p.a.getLsbD c.ceAddrBit = true ∧ p.iorq = true ∧ (p.rd = true ∨ p.wr = true) := by
  rw [chipEnable, Bool.and_eq_true, Bool.and_eq_true, Bool.or_eq_true, and_comm]

theorem busIndex_toNat :
    (busIndex c p).toNat =
      4 * p.wr.toNat + 2 * (p.a.getLsbD c.selHiBit).toNat + (p.a.getLsbD c.selLoBit).toNat := by
  simp only [busIndex, toNat_append_eq_add, BitVec.toNat_ofBool]
  omega

end

/-- The decoder sees the address, `IORQ`, `RD` and `WR` of a record and nothing else (R142). -/
theorem busDecode_congr (c : Config) {p q : CpuPins} (ha : q.a = p.a) (hiorq : q.iorq = p.iorq) (hrd : q.rd = p.rd)
    (hwr : q.wr = p.wr) : busDecode c q = busDecode c p := by
  simp only [busDecode, chipEnable, busIndex, ha, hiorq, hrd, hwr]

/-! ### The decoded lines -/

theorem decodeY_false (idx : BitVec 3) : decodeY false idx = BitVec.allOnes 8 := rfl

theorem decodeY_true (idx : BitVec 3) : decodeY true idx = ~~~ BitVec.twoPow 8 idx.toNat := by
  have h : decodeY true idx = BitVec.allOnes 8 ^^^ BitVec.twoPow 8 idx.toNat := rfl
  rw [h, BitVec.allOnes_xor]

/-- A line is low just when the chip is enabled and the line is the one of the index (R144). -/
theorem decodeY_getLsbD_eq_false_iff (ce : Bool) (idx : BitVec 3) {i : Nat} (hi : i < 8) :
    (decodeY ce idx).getLsbD i = false ↔ ce = true ∧ i = idx.toNat := by
  cases ce with
  | false =>
    rw [decodeY_false, BitVec.getLsbD_allOnes]
    simp [hi]
  | true =>
    rw [decodeY_true, BitVec.getLsbD_not, BitVec.getLsbD_twoPow]
    have hidx : idx.toNat < 8 := idx.isLt
    simp [hi, hidx, eq_comm (a := i)]

theorem busDecode_of_enabled {c : Config} {p : CpuPins} (h : chipEnable c p = true) :
    busDecode c p = remap c.wire (decodeY true (busIndex c p)) := by rw [busDecode, h]

theorem busDecode_of_disabled {c : Config} {p : CpuPins} (h : ¬ chipEnable c p = true) : busDecode c p = idleBus := by
  rw [busDecode, Bool.eq_false_of_not_eq_true h]
  exact remap_idle c.wire

/-- Settles O8: the enabled decode is low on the line of the index alone, and the disabled one is the idle bus. -/
theorem decoderIsOneHot : Obligations.DecoderIsOneHot := by
  intro c p ce index y
  have hindex : (busIndex c p).toNat = index := busIndex_toNat c p
  refine ⟨fun hce => ?_, fun hce => ?_, fun q => busDecode_congr c⟩
  · have hy : y = decodeY true (busIndex c p) :=
      congrArg BusLines.y (busDecode_of_enabled ((chipEnable_iff c p).2 hce))
    refine ⟨hindex ▸ hy, fun i hi => ?_⟩
    rw [hy, decodeY_getLsbD_eq_false_iff true _ hi, hindex]
    exact and_iff_right rfl
  · exact congrArg BusLines.y (busDecode_of_disabled (mt (chipEnable_iff c p).1 hce))

/-! ### The reference I/O map -/

/-- A bit of the port number is an address bit. -/
theorem getLsbD_of_port {a : BitVec 16} {port : BitVec 3} (h : a.extractLsb' 5 3 = port) {i : Nat} (hi : i < 3) :
    a.getLsbD (5 + i) = port.getLsbD i := by
  rw [← h, BitVec.getLsbD_extractLsb', decide_eq_true hi, Bool.true_and]

/-- The index is `WR` above the two select bits (R143). -/
theorem append_selectBits (wr : Bool) (sel : BitVec 2) :
    BitVec.ofBool wr ++ BitVec.ofBool (sel.getLsbD 1) ++ BitVec.ofBool (sel.getLsbD 0) = BitVec.ofBool wr ++ sel := by
  revert wr sel
  decide

/-- An I/O cycle of the reference wiring on a port with address bit 7 set drives the line of `WR` and the select bits
(R141, R143). -/
theorem sixLines_refPort {p : CpuPins} {wr : Bool} {sel : BitVec 2} (hiorq : p.iorq = true)
    (hcycle : p.rd = true ∨ p.wr = true) (hwr : p.wr = wr) (hport : p.a.extractLsb' 5 3 = 1#1 ++ sel) :
    sixLines (busDecode configRef p) = sixLines (remap wireRef (decodeY true (BitVec.ofBool wr ++ sel))) := by
  have hbit (i : Nat) (hi : i < 3) := (getLsbD_of_port hport hi).trans BitVec.getLsbD_append
  have hbit5 : p.a.getLsbD 5 = sel.getLsbD 0 := hbit 0 (by decide)
  have hbit6 : p.a.getLsbD 6 = sel.getLsbD 1 := hbit 1 (by decide)
  have hbit7 : p.a.getLsbD 7 = true := hbit 2 (by decide)
  have hindex : busIndex configRef p = BitVec.ofBool wr ++ sel := by
    rw [← append_selectBits wr sel, ← hbit5, ← hbit6, ← hwr]
    rfl
  rw [busDecode_of_enabled ((chipEnable_iff _ p).2 ⟨hbit7, hiorq, hcycle⟩), hindex]
  rfl

/-- Settles O9: each row of the table is the line of its port, and every other record leaves the bus idle. -/
theorem referenceIoMap : Obligations.ReferenceIoMap := by
  intro p six port clear
  refine ⟨fun hiorq hwr => ?_, fun hiorq hwr hrd => ?_, fun hnone => ?_⟩
  · have hrow (sel : BitVec 2) := sixLines_refPort (sel := sel) hiorq (.inr hwr) hwr
    exact ⟨hrow 0, hrow 1, hrow 2, hrow 3⟩
  · have hrow (sel : BitVec 2) := sixLines_refPort (sel := sel) hiorq (.inl hrd) hwr
    exact ⟨hrow 0, hrow 1, hrow 2, hrow 3⟩
  · have hdisabled : ¬ chipEnable configRef p = true := by
      rw [chipEnable_iff]
      rintro ⟨hbit7, hiorq, hcycle⟩
      rcases hnone with h | ⟨hrd, hwr⟩ | h
      · exact Bool.false_ne_true (h.symm.trans hiorq)
      · simp [hrd, hwr] at hcycle
      · exact Bool.false_ne_true (h.symm.trans hbit7)
    exact congrArg sixLines (busDecode_of_disabled hdisabled)

/-! ### The decoder operations -/

/-- The operation answers a state that differs in the decoder's lines: `Y` is the byte, each output is the level of the
line wired to it, and under the reference wiring the outputs are the six levels (R145, R147 to R152). -/
def DrivesLines (s : State) (i : Instr) (y : Byte) (six : List Level) : Prop :=
  let w := s.config.wire
  ∃ t, exec i s = .next t ∧ { t with bus := s.bus } = s ∧ t.bus.y = y ∧
    sixLines t.bus = [w.as, w.ds, w.rw, w.kbd, w.tapeRd, w.tapeWr].map (fun line => y.getLsbD line) ∧
    (w = wireRef → sixLines t.bus = six)

/-- In a running block, what an operation that drives the lines for a selector does is its decode. -/
theorem drivesLines_of_exec {s : State} (hf : s.fault = none) {i : Instr} {ce : Bool} {idx : BitVec 3} {y : Byte}
    {six : List Level} (hexec : exec i s = .next (live (driveLines ce idx) s)) (hy : decodeY ce idx = y)
    (hsix : sixLines (remap wireRef y) = six) : DrivesLines s i y six := by
  rw [live_of_running _ _ hf] at hexec
  subst hy hsix
  exact ⟨_, hexec, rfl, rfl, rfl, fun hw => congrArg (fun w => sixLines (remap w (decodeY ce idx))) hw⟩

/-- Settles O10: each operation is the drive of its own selector. -/
theorem decoderOperationsDriveTheirLine : Obligations.DecoderOperationsDriveTheirLine := fun _ hf =>
  ⟨fun idx => drivesLines_of_exec (i := .bdIdle idx) hf rfl (decodeY_false idx) rfl,
    drivesLines_of_exec (i := .bdKbd) hf rfl rfl rfl,
    drivesLines_of_exec (i := .bdTapeRd) hf rfl rfl rfl,
    drivesLines_of_exec (i := .bdVdpDs) hf rfl rfl rfl,
    drivesLines_of_exec (i := .bdNc3) hf rfl rfl rfl,
    drivesLines_of_exec (i := .bdVdpAs) hf rfl rfl rfl,
    drivesLines_of_exec (i := .bdTapeWr) hf rfl rfl rfl,
    drivesLines_of_exec (i := .bdVdpRw) hf rfl rfl rfl,
    drivesLines_of_exec (i := .bdNc7) hf rfl rfl rfl⟩

end Sys2Proof.Machine
end

section
/-! PROOFS of the family `41_vdp_bus_interface`, the falling edges (41_vdp_bus_interface R162 to R165). In a running
block a strobe asked for as an operation is its effect on the VDP; what the effects do is said by `dsFall_eq` and
`getReg_rwFall`. -/
namespace Sys2Proof.Machine

section
variable {s : State} (hf : s.fault = none)
include hf

theorem exec_vbAsFall (ad : Byte) (ds : Level) : exec (.vbAsFall ad ds) s = .next (asFall ad ds s) :=
  congrArg _ (live_of_running s _ hf)

theorem exec_vbDsFall (rw : Level) : exec (.vbDsFall rw) s = .next (dsFall rw s) :=
  congrArg _ (live_of_running s _ hf)

theorem exec_vbRwFall (ad : Byte) : exec (.vbRwFall ad) s = .next (rwFall ad s) :=
  congrArg _ (live_of_running s _ hf)

theorem exec_vbRwRise : exec .vbRwRise s = .next (rwRise s) :=
  congrArg _ (live_of_running s _ hf)

end

/-- The register that an address byte selects, as a number (30_encoding R104). -/
theorem eq_latchedReg_iff (s : State) (k : BitVec 3) : k = latchedReg s ↔ k.toNat = s.addrLatch.toNat % 8 := by
  rw [← BitVec.toNat_inj, latchedReg, BitVec.extractLsb'_toNat, Nat.shiftRight_zero]

/-- Settles O11: the address strobe is its three latches, the write strobe the store it is allowed. -/
theorem strobesLatchAndStore : Obligations.StrobesLatchAndStore := by
  intro s hf
  refine ⟨fun ad ds => exec_vbAsFall hf ad ds, fun ad h5 => ?_, fun ad h5 => ⟨_, exec_vbRwFall hf ad, ?_, fun k => ?_⟩⟩
  · rw [exec_vbRwFall hf, rwFall, h5, onlyIf_false]
  · obtain ⟨r, hr⟩ := rwFall_eq ad s
    rw [hr, OnlyRegs]
  · simp only [getReg_rwFall, h5, true_and, eq_latchedReg_iff]

/-- A read that is not answered changes nothing (R163). -/
theorem dsFall_unanswered {rw : Level} {s : State} (h : rw = false ∨ s.addrLatch.getLsbD 4 = true) :
    dsFall rw s = s := by
  rw [dsFall_eq, if_neg]
  rcases h with h | h <;> simp [h]

/-- A read is answered with `RW` high and address bit 4 clear (R163). -/
theorem dsFall_answered {s : State} (h4 : s.addrLatch.getLsbD 4 = false) : dsFall true s = answerRead s := by
  rw [dsFall_eq, h4]; rfl

/-- Settles O12: an answered read drives the selected register, register 0 as 0x00 with a log record. -/
theorem dataStrobeReadsRegister : Obligations.DataStrobeReadsRegister := by
  intro s rw hf n
  rw [exec_vbDsFall hf]
  refine ⟨?_, ?_, fun h => congrArg _ (dsFall_unanswered h)⟩
  · rintro rfl h4 (hn : latchedReg s = 0)
    rw [dsFall_answered h4, answerRead, busReadValue, if_pos hn, if_pos hn]
  · rintro rfl h4 (hn : latchedReg s ≠ 0)
    rw [dsFall_answered h4, answerRead, busReadValue, if_neg hn, if_neg hn]
    rfl

/-- Settles O13: the read in the later state finds the latched address and the register as the write left them. -/
theorem registerReadsBackOnTheBus : Obligations.RegisterReadsBackOnTheBus := by
  intro s ad v ds hf h5 h4 n
  have hf1 : (asFall ad ds s).fault = none := hf
  have hstored : getReg (rwFall v (asFall ad ds s)) n = v := by
    rw [getReg_rwFall, if_pos ⟨h5, rfl⟩]
  have haddr : (rwFall v (asFall ad ds s)).addrLatch = ad := by
    obtain ⟨r, hr⟩ := rwFall_eq v (asFall ad ds s)
    rw [hr]; rfl
  refine ⟨_, _, exec_vbAsFall hf ad ds, exec_vbRwFall hf1 v, fun u hu hulatch hureg => ?_⟩
  rw [haddr] at hulatch
  rw [hstored] at hureg
  have hread : busReadValue u = if n = 0 then 0x00 else v := by
    have hn : latchedReg u = n := by rw [latchedReg, hulatch]
    rw [busReadValue, hn, hureg]
  exact ⟨answerRead u, by rw [exec_vbDsFall hu, dsFall_answered (hulatch ▸ h4)], rfl, hread⟩

end Sys2Proof.Machine
end

section
/-! PROOFS of the family `41_vdp_bus_interface`, the rising edge of `RW` (41_vdp_bus_interface R166). What the edge runs
is said by the class of the opcode; an operation of the command table is its command byte under the class that the
reference table gives its opcode (30_encoding R107, R108, 42_vdp_commands R180). -/
namespace Sys2Proof.Machine

/-! ### Command bytes and their bits -/

@[simp] theorem cmdOp_cmdByte (op p : BitVec 4) : cmdOp (cmdByte op p) = op := extract_high_append op p

@[simp] theorem cmdP_cmdByte (op p : BitVec 4) : cmdP (cmdByte op p) = p := extract_low_append op p

section
variable (p3 p2 p1 p0 : Bool)

@[simp] theorem getElem_zero_nibble : (nibble p3 p2 p1 p0)[0] = p0 := by revert p3 p2 p1 p0; decide
@[simp] theorem getElem_one_nibble : (nibble p3 p2 p1 p0)[1] = p1 := by revert p3 p2 p1 p0; decide
@[simp] theorem getElem_two_nibble : (nibble p3 p2 p1 p0)[2] = p2 := by revert p3 p2 p1 p0; decide
@[simp] theorem getElem_three_nibble : (nibble p3 p2 p1 p0)[3] = p3 := by revert p3 p2 p1 p0; decide

end

/-- The parameter of an indirect access: the direction in bit 3, the index below it (30_encoding R108). -/
theorem indirect_param (b : BitVec 1) (r : BitVec 3) :
    (b ++ r : BitVec 4)[3] = b[0] ∧ (b ++ r : BitVec 4).extractLsb' 0 3 = r := by revert b r; decide

/-! ### Classes -/

/-- What a command byte does under a class (42_vdp_commands R180). -/
def runClass (k : CmdClass) (c : Byte) (s : State) : State :=
  match k with
  | .implemented g => runGroup g c s
  | .unimplemented => unimpl c s
  | .unrecognised => unknown c s

theorem dispatch_eq_runClass (c : Byte) (s : State) : dispatch c s = runClass (cmdClass s.config (cmdOp c)) c s := rfl

/-- The parameter bits by which a group has no command, tested first (30_encoding R109). -/
def NoGroupCommand (g : CommandGroup) (p : BitVec 4) : Prop :=
  g = .block ∧ p.getLsbD 2 = true ∨ g = .octet ∧ p.getLsbD 1 = true

theorem runGroup_noCommand {g : CommandGroup} {c : Byte} (h : NoGroupCommand g (cmdP c)) (s : State) :
    runGroup g c s = unimpl c s := by
  rcases h with ⟨rfl, h⟩ | ⟨rfl, h⟩ <;> exact if_pos h

/-- Where a group has a command, the opcode does not matter to it. -/
theorem runGroup_congr {g : CommandGroup} {c d : Byte} (hp : cmdP c = cmdP d) (h : ¬ NoGroupCommand g (cmdP d))
    (s : State) : runGroup g c s = runGroup g d s := by
  cases g with
  | block =>
    have h2 : (cmdP d).getLsbD 2 = false := Bool.eq_false_iff.2 fun h2 => h (.inl ⟨rfl, h2⟩)
    simp only [runGroup, hp, h2, Bool.false_eq_true, if_false]
  | octet =>
    have h1 : (cmdP d).getLsbD 1 = false := Bool.eq_false_iff.2 fun h1 => h (.inr ⟨rfl, h1⟩)
    simp only [runGroup, hp, h1, Bool.false_eq_true, if_false]
  | indirect => simp only [runGroup, hp]
  | nextRow => rfl

/-! ### The operations of the command table -/

section
variable {s : State} (hf : s.fault = none)
include hf

/-- An operation that is one sub-step does, in a running block, what the sub-step is said to do. -/
theorem exec_of_live {i : Instr} {f : State → State} {t : State} (hexec : exec i s = .next (live f s)) (ht : t = f s) :
    exec i s = .next t := by
  rw [hexec, live_of_running s f hf, ht]

/-- An operation of the command table does what its command byte does under the reference class of its opcode. -/
theorem exec_command {i : Instr} {c : Byte} (h : encodeCmd? i = some c) :
    exec i s = .next (runClass (cmdClassRef (cmdOp c)) c s) := by
  cases i with
  | krfW | krfR | krgW | krgR | unimplClr =>
    cases h; exact exec_of_live hf rfl (by simp [runClass, cmdClassRef, runGroup])
  | octWMp | octWAp | octRMp | octRAp | unimplOct =>
    cases h; exact exec_of_live hf rfl (by simp [runClass, cmdClassRef, runGroup])
  | indW r | indR r =>
    cases h; exact exec_of_live hf rfl (by simp [runClass, cmdClassRef, runGroup, indirect_param])
  | iny =>
    cases h; exact exec_of_live hf rfl (by simp [runClass, cmdClassRef, runGroup])
  | unimplKre | unimplKrv | unimplKrc | unimplKrl | unimplExp | unimplCmp | unimplNop | unimplMvb | unimplMvd
  | unimplMvt =>
    cases h; exact exec_of_live hf rfl (by simp [runClass, cmdClassRef])
  | unknownA | unknownC =>
    cases h; exact exec_of_live hf rfl (by simp [runClass, cmdClassRef])
  | _ => cases h

theorem exec_decodeCmd (c : Byte) : exec (decodeCmd c) s = .next (runClass (cmdClassRef (cmdOp c)) c s) :=
  exec_command hf (encodeCmd_decodeCmd c)

/-- Where the class of the opcode is the reference table's, the command dispatched is the one the byte decodes to. -/
theorem exec_decodeCmd_eq_dispatch {c : Byte} (h : cmdClass s.config (cmdOp c) = cmdClassRef (cmdOp c)) :
    exec (decodeCmd c) s = .next (dispatch c s) := by
  rw [exec_decodeCmd hf, dispatch_eq_runClass, h]

/-- Another opcode of a group runs the command of the group's own opcode with its parameter bits. -/
theorem exec_groupCommand {g : CommandGroup} {c : Byte} {ref : BitVec 4} (hc : ¬ NoGroupCommand g (cmdP c))
    (href : cmdClassRef ref = .implemented g) :
    exec (decodeCmd (cmdByte ref (cmdP c))) s = .next (runGroup g c s) := by
  rw [exec_decodeCmd hf, cmdOp_cmdByte, href, runClass, runGroup_congr (cmdP_cmdByte _ _) hc]

theorem exec_vbRwRise_dispatch (hxq : s.xqLatch = true) : exec .vbRwRise s = .next (dispatch (getReg s 0) s) := by
  rw [exec_vbRwRise hf, rwRise, hxq, onlyIf_true]

theorem exec_vbRwRise_idle (hxq : s.xqLatch = false) : exec .vbRwRise s = .next s := by
  rw [exec_vbRwRise hf, rwRise, hxq, onlyIf_false]

end

/-- Settles O14: the edge runs `R[0]` under its class, and an operation of the table is its byte under the reference
class. -/
theorem rwRiseExecutesRegisterZero : Obligations.RwRiseExecutesRegisterZero := by
  intro s hf c op p runs logs noCommand
  refine ⟨fun hxq => ?_, exec_vbRwRise_idle hf⟩
  have hrise (k : CmdClass) (hk : cmdClass s.config op = k) : exec .vbRwRise s = .next (runClass k c s) := by
    rw [exec_vbRwRise_dispatch hf hxq, dispatch_eq_runClass]
    exact congrArg (fun k => Host.Outcome.next (runClass k c s)) hk
  refine ⟨fun href => ⟨_, hrise _ href, exec_decodeCmd hf c⟩, hrise _, fun hk => ?_, fun g hk => ⟨fun hno => ?_,
    fun hcommand ref href => ⟨_, hrise _ hk, exec_groupCommand hf hcommand href⟩⟩⟩
  · exact (hrise _ hk).trans (congrArg _ (raise_of_running s _ hf))
  · exact (hrise _ hk).trans (congrArg _ (runGroup_noCommand hno s))

end Sys2Proof.Machine
end

section
/-! PROOFS of the family `41_vdp_bus_interface`, register access over whole bus scripts (30_encoding R130,
41_vdp_bus_interface R164). The block is ready again after a cycle, so the cycles of a pseudo-instruction compose. -/
namespace Sys2Proof.Machine

/-! ### Cycles one after another -/

section
variable {s u y : State} {k : Nat}

/-- A block that ends a cycle in a state that is ready is ready itself. -/
theorem busReady_of_upToTick (hu : UpToTick u (passTime k y)) (hy : BusReady y) : BusReady u := by
  obtain ⟨hrunning, hratio, hmode, hwire⟩ := ticking_of_upToTick hu hy.ticking
  have hconfig : u.config = y.config := hu.part State.config
  exact
    { running := hrunning, ratio := hratio, ports := hconfig ▸ hy.ports
      idle := shows_of_upToTick (b := idleBus) hu hy.idle, mode := hmode, wire := hwire }

theorem busReady_asFall (ad : Byte) (ds : Level) (hs : BusReady s) : BusReady (asFall ad ds s) :=
  ⟨hs.running, hs.ratio, hs.ports, hs.idle, hs.mode, hs.wire⟩

/-- The write strobe neither reads nor writes what runs by itself. -/
theorem ignores_rwFall (v : Byte) : IgnoresFreeParts (rwFall v) := fun u s =>
  commutes_onlyIf (g := restoreTick u) (f := setReg (latchedReg s) v) (s.addrLatch.getLsbD 5) (fun _ => rfl) s

/-- The write strobe takes no time and counts none. -/
theorem rwFall_passTime (v : Byte) (k : Nat) : Commutes (passTime k) (rwFall v) := fun s =>
  commutes_onlyIf (g := passTime k) (f := setReg (latchedReg s) v) (s.addrLatch.getLsbD 5) (fun _ => rfl) s

theorem passTime_passTime (j k : Nat) (s : State) : passTime j (passTime k s) = passTime (k + j) s := by
  simp only [passTime, Nat.add_assoc]

/-- Time that passes after a cycle adds to the time of the cycle. -/
theorem UpToTick.afterCycle {f : State → State} {w : State} {j : Nat} (hu : UpToTick u (passTime k y))
    (hw : UpToTick w (passTime j (f u))) (hf : IgnoresFreeParts f) (hpass : Commutes (passTime k) f) :
    UpToTick w (passTime (k + j) (f y)) := by
  have hfu := (hu.map hf).map (ignores_passTime j)
  rw [hpass, passTime_passTime] at hfu
  exact hw.trans hfu

end

/-! ### The address bytes (30_encoding R104) -/

theorem addrByte_bits : ∀ n : BitVec 3, (addrByte n).getLsbD 3 = false ∧ (addrByte n).getLsbD 4 = false ∧
    (addrByte n).getLsbD 5 = true ∧ (addrByte n).extractLsb' 0 3 = n := by decide

theorem addrByteX_bits : ∀ n : BitVec 3, (addrByteX n).getLsbD 3 = true ∧ (addrByteX n).getLsbD 5 = true ∧
    (addrByteX n).extractLsb' 0 3 = n := by decide

/-- With address bit 5 set the write strobe stores the byte under the latched address (41_vdp_bus_interface R165). -/
theorem rwFall_asFall {ad : Byte} (h5 : ad.getLsbD 5 = true) (ds : Level) (v : Byte) (s : State) :
    rwFall v (asFall ad ds s) = setReg (ad.extractLsb' 0 3) v (asFall ad ds s) := by
  have hlatch : (asFall ad ds s).addrLatch.getLsbD 5 = true := h5
  rw [rwFall, hlatch]; rfl

/-- What a read of register `n` leaves behind: the byte as the result, and a log record for register 0
(41_vdp_bus_interface R163, 60_exceptions R336). -/
def readResultOf (n : BitVec 3) (byte : Byte) (s : State) : State :=
  setResult (.byteRead byte) { s with log := if n = 0 then s.log ++ [.r0PlaceholderRead] else s.log }

/-- With address bit 4 clear an IN of the data port is a read of the latched register. -/
theorem dataPort_answered {s : State} (h4 : s.addrLatch.getLsbD 4 = false) :
    setResult (.byteRead (dataPortByte s)) (logDataRead s) = readResultOf (latchedReg s) (busReadValue s) s := by
  simp only [dataPortByte, logDataRead, readResultOf, h4, true_and, if_true]

/-! ### The pseudo-instructions -/

section
variable {s : State} {t1 t2 : BusTiming} (hs : BusReady s) (h1 : t1.wf = true) (h2 : t2.wf = true)
include hs h1

/-- After the address cycle of a pseudo-instruction the block is ready, with the address latched. -/
theorem busReady_busOut_portAs (ad : Byte) : BusReady (busOut s.config.portAs ad t1 s) :=
  busReady_of_upToTick (busOut_portAs hs h1 ad) (busReady_asFall ad true hs)

theorem busOut_portAs_config (ad : Byte) : (busOut s.config.portAs ad t1 s).config = s.config :=
  (busOut_portAs hs h1 ad).part State.config

include h2

/-- WREG latches the register's address and stores the byte. -/
theorem writeReg_upToTick (n : BitVec 3) (v : Byte) :
    UpToTick (writeReg n v t1 t2 s)
      (passTime (cycleTicks t1 + cycleTicks t2) (setReg n v (asFall (addrByte n) true s))) := by
  obtain ⟨h3, -, h5, hn⟩ := addrByte_bits n
  have haddr := busOut_portAs hs h1 (addrByte n)
  have hxq : (busOut s.config.portAs (addrByte n) t1 s).xqLatch = false := (haddr.part State.xqLatch).trans h3
  have hdata := busOut_portDs (busReady_busOut_portAs hs h1 (addrByte n)) h2 v hxq
  rw [busOut_portAs_config hs h1] at hdata
  have hwrite := haddr.afterCycle hdata (ignores_rwFall v) (rwFall_passTime v _)
  rwa [rwFall_asFall h5, hn] at hwrite

/-- RREG latches the register's address and reads the register. -/
theorem readReg_upToTick (n : BitVec 3) :
    UpToTick (readReg n t1 t2 s)
      (passTime (cycleTicks t1 + cycleTicks t2)
        (readResultOf n (if n = 0 then 0x00 else getReg s n) (asFall (addrByte n) true s))) := by
  obtain ⟨-, h4, -, hn⟩ := addrByte_bits n
  have haddr := busOut_portAs hs h1 (addrByte n)
  have hdata := busIn_portDs (busReady_busOut_portAs hs h1 (addrByte n)) h2
  have hlatch : (busOut s.config.portAs (addrByte n) t1 s).addrLatch = addrByte n := haddr.part State.addrLatch
  have hreg : latchedReg (busOut s.config.portAs (addrByte n) t1 s) = n := by rw [latchedReg, hlatch, hn]
  have hbyte : busReadValue (busOut s.config.portAs (addrByte n) t1 s) = if n = 0 then 0x00 else getReg s n := by
    have hsame : getReg (busOut s.config.portAs (addrByte n) t1 s) n = getReg s n := haddr.part (getReg · n)
    rw [busReadValue, hreg, hsame]
  rw [busOut_portAs_config hs h1, dataPort_answered (by rw [hlatch, h4]), hreg, hbyte] at hdata
  exact haddr.afterCycle hdata (fun _ _ => rfl) fun _ => rfl

end

/-- Settles O58: the two scripts leave what their strobes make of the block, and the block is ready in between. -/
theorem writtenRegisterReadsBack : Obligations.WrittenRegisterReadsBack := by
  intro s n v t1 t2 t3 t4 hs h1 h2 h3 h4
  obtain ⟨hx, -⟩ := addrByte_bits n
  have hu := writeReg_upToTick hs h1 h2 n v
  have hready : BusReady (writeReg n v t1 t2 s) :=
    busReady_of_upToTick hu ⟨hs.running, hs.ratio, hs.ports, hs.idle, hs.mode, hs.wire⟩
  have hreg (k : BitVec 3) : getReg (writeReg n v t1 t2 s) k = if k = n then v else getReg s k :=
    (hu.part (getReg · k)).trans (getReg_setReg _ n k v)
  have hstored : getReg (writeReg n v t1 t2 s) n = v := (hreg n).trans (if_pos rfl)
  have hw := readReg_upToTick hready h3 h4 n
  rw [hstored] at hw
  refine ⟨_, _, exec_wreg s h1 h2 n v, onlyTimePasses_of_upToTick hs hu rfl, hu.part State.log,
    (hu.part State.xqLatch).trans hx, hreg, exec_rreg _ h3 h4 n, onlyTimePasses_of_upToTick hready hw rfl,
    hw.part State.r, hw.part State.result, hw.part State.log⟩

end Sys2Proof.Machine
end

section
/-! PROOFS of the family `41_vdp_bus_interface`, what a command depends on (42_vdp_commands R203): the parts of the
state that a command changes, and the configuration. So a change of any other part can be made before or after it. -/
namespace Sys2Proof.Machine

/-- What the sub-step leaves in the parts of a command depends only on what it finds there and on the configuration. -/
def ActsOnCommand (f : State → State) : Prop :=
  ∀ s t : State, t.config = s.config → f (restoreCommand s t) = restoreCommand (f s) t

section
variable {f : State → State}

/-- It is enough to look at a state to which the configuration has been given. -/
theorem actsOnCommand_of_sameConfig
    (hf : ∀ s t : State,
      f (restoreCommand s { t with config := s.config }) = restoreCommand (f s) { t with config := s.config }) :
    ActsOnCommand f := fun s t h => by
  have ht : t = { t with config := s.config } := by rw [← h]
  rw [ht, hf]

theorem actsOnCommand_onlyIf (b : Bool) (hf : ActsOnCommand f) : ActsOnCommand (onlyIf b f) := fun s t h => by
  cases b
  · rfl
  · exact hf s t h

end

/-! ### The commands -/

theorem actsOnCommand_incCol (k : BitVec 3) (carry : Bool) : ActsOnCommand (incCol k carry) := fun s t h =>
  actsOnCommand_onlyIf (f := incRow (k - 1)) _ (fun _ _ _ => rfl) (setReg k (incColByte (getReg s k)) s) t h

theorem actsOnCommand_incMp (inc carry : Bool) : ActsOnCommand (incMp inc carry) :=
  actsOnCommand_onlyIf inc (actsOnCommand_incCol 7 carry)

theorem actsOnCommand_incAp (inc : Bool) : ActsOnCommand (incAp inc) :=
  actsOnCommand_onlyIf inc (actsOnCommand_incCol 5 false)

section
variable {f : Ptr → State → State} (inc : Bool)

/-- A transfer at the memory pointer and then its increment (42_vdp_commands R186). -/
theorem actsOnCommand_atMp (carry : Bool) (hconfig : ∀ p s, (f p s).config = s.config)
    (hf : ∀ p, ActsOnCommand (f p)) : ActsOnCommand fun s => incMp inc carry (f (mp s) s) := fun s t h => by
  have hp : mp (restoreCommand s t) = mp s := congrArg (ptrOf · (getReg s 6) (getReg s 7)) h
  simp only [hp, hf _ s t h]
  exact actsOnCommand_incMp inc carry (f (mp s) s) t (h.trans (hconfig _ s).symm)

theorem actsOnCommand_atAp (hconfig : ∀ p s, (f p s).config = s.config) (hf : ∀ p, ActsOnCommand (f p)) :
    ActsOnCommand fun s => incAp inc (f (ap s) s) := fun s t h => by
  have hp : ap (restoreCommand s t) = ap s := congrArg (ptrOf · (getReg s 4) (getReg s 5)) h
  simp only [hp, hf _ s t h]
  exact actsOnCommand_incAp inc (f (ap s) s) t (h.trans (hconfig _ s).symm)

end

section
variable (inc : Bool)

theorem actsOnCommand_krfW : ActsOnCommand (krfW inc) :=
  actsOnCommand_atMp (f := fun p s => storeReg p 2 3 (storeReg p 1 2 (storeReg p 0 1 s))) inc false (fun _ _ => rfl)
    fun _ => actsOnCommand_of_sameConfig fun _ _ => rfl

theorem actsOnCommand_krfR : ActsOnCommand (krfR inc) :=
  actsOnCommand_atMp (f := fun p s => loadReg p 2 3 (loadReg p 1 2 (loadReg p 0 1 s))) inc false (fun _ _ => rfl)
    fun _ => actsOnCommand_of_sameConfig fun _ _ => rfl

theorem actsOnCommand_krgW : ActsOnCommand (krgW inc) :=
  actsOnCommand_atMp (f := fun p s => storeReg p 1 2 (storeReg p 0 1 s)) inc false (fun _ _ => rfl) fun _ =>
    actsOnCommand_of_sameConfig fun _ _ => rfl

theorem actsOnCommand_krgR : ActsOnCommand (krgR inc) :=
  actsOnCommand_atMp (f := fun p s => loadReg p 1 2 (loadReg p 0 1 s)) inc false (fun _ _ => rfl) fun _ =>
    actsOnCommand_of_sameConfig fun _ _ => rfl

theorem actsOnCommand_octWMp : ActsOnCommand (octWMp inc) :=
  actsOnCommand_atMp (f := fun p s => storeReg p 0 1 s) inc true (fun _ _ => rfl) fun _ =>
    actsOnCommand_of_sameConfig fun _ _ => rfl

theorem actsOnCommand_octRMp : ActsOnCommand (octRMp inc) :=
  actsOnCommand_atMp (f := fun p s => loadReg p 0 1 s) inc true (fun _ _ => rfl) fun _ =>
    actsOnCommand_of_sameConfig fun _ _ => rfl

theorem actsOnCommand_octWAp : ActsOnCommand (octWAp inc) :=
  actsOnCommand_atAp (f := fun p s => storeReg p 0 1 s) inc (fun _ _ => rfl) fun _ =>
    actsOnCommand_of_sameConfig fun _ _ => rfl

theorem actsOnCommand_octRAp : ActsOnCommand (octRAp inc) :=
  actsOnCommand_atAp (f := fun p s => loadReg p 0 1 s) inc (fun _ _ => rfl) fun _ =>
    actsOnCommand_of_sameConfig fun _ _ => rfl

end

theorem actsOnCommand_raise (e : Fault) : ActsOnCommand (raise e) := fun s t _ => by
  cases h : s.fault with
  | none => rw [raise_of_running (restoreCommand s t) e h, raise_of_running s e h]; rfl
  | some e' => rw [raise_of_halted (restoreCommand s t) e e' h, raise_of_halted s e e' h]

theorem actsOnCommand_runGroup (g : CommandGroup) (c : Byte) : ActsOnCommand (runGroup g c) := fun s t h => by
  cases g <;> simp only [runGroup]
  case block =>
    split
    · rfl
    · split <;> split
      exacts [actsOnCommand_krgR _ s t h, actsOnCommand_krgW _ s t h, actsOnCommand_krfR _ s t h,
        actsOnCommand_krfW _ s t h]
  case octet =>
    split
    · rfl
    · split <;> split
      exacts [actsOnCommand_octRAp _ s t h, actsOnCommand_octRMp _ s t h, actsOnCommand_octWAp _ s t h,
        actsOnCommand_octWMp _ s t h]
  case indirect => split <;> rfl
  case nextRow => rfl

theorem actsOnCommand_dispatch (c : Byte) : ActsOnCommand (dispatch c) := fun s t h => by
  have hclass : dispatch c (restoreCommand s t) = runClass (cmdClass s.config (cmdOp c)) c (restoreCommand s t) :=
    congrArg (fun config => runClass (cmdClass config (cmdOp c)) c (restoreCommand s t)) h
  rw [hclass, dispatch_eq_runClass]
  cases cmdClass s.config (cmdOp c) with
  | implemented g => exact actsOnCommand_runGroup g c s t h
  | unimplemented => rfl
  | unrecognised => exact actsOnCommand_raise _ s t h

/-! ### Changes of other parts -/

/-- A change of parts that no command reads or writes can be made before a command or after it. -/
theorem commutes_dispatch {g : State → State} (c : Byte) (hg : ∀ s t, g (restoreCommand s t) = restoreCommand s (g t))
    (hconfig : ∀ s, (g s).config = s.config) : Commutes g (dispatch c) := fun s => by
  have hkept : restoreCommand (dispatch c s) s = dispatch c s := by
    have hframe := dispatch_frame s c
    calc restoreCommand (dispatch c s) s
        = restoreCommand (dispatch c s) (restoreCommand s (dispatch c s)) := by rw [hframe]
      _ = dispatch c s := rfl
  calc dispatch c (g s)
      = dispatch c (restoreCommand s (g s)) := by rw [← hg]; rfl
    _ = restoreCommand (dispatch c s) (g s) := actsOnCommand_dispatch c s (g s) (hconfig s)
    _ = g (restoreCommand (dispatch c s) s) := (hg _ _).symm
    _ = g (dispatch c s) := by rw [hkept]

/-! ### Faults -/

theorem runGroup_fault (g : CommandGroup) (c : Byte) : Leaves State.fault (runGroup g c) := fun s => by
  have hcol (k : BitVec 3) (carry : Bool) : Leaves State.fault (incCol k carry) :=
    leaves_of_frame (restore := fun s t => { t with r := s.r }) (fun s => incCol_onlyRegs s k carry) fun _ _ => rfl
  have hmp (inc carry : Bool) : Leaves State.fault (incMp inc carry) := leaves_onlyIf inc (hcol 7 carry)
  have hap (inc : Bool) : Leaves State.fault (incAp inc) := leaves_onlyIf inc (hcol 5 false)
  cases g <;> simp only [runGroup]
  case block =>
    split
    · rfl
    · split <;> split <;> exact hmp _ _ _
  case octet =>
    split
    · rfl
    · split <;> split
      exacts [hap _ _, hmp _ _ _, hap _ _, hmp _ _ _]
  case indirect => split <;> rfl
  case nextRow => rfl

/-- A dispatch that faults is the fault of an unrecognised opcode and nothing else (42_vdp_commands R202). -/
theorem dispatch_faults {s : State} {c : Byte} (hf : s.fault = none) (h : (dispatch c s).fault ≠ none) :
    dispatch c s = markFault (.unknownOpcode c) s := by
  rcases dispatch_cases s c with ⟨g, -, hd⟩ | ⟨-, hd⟩ | ⟨-, hd⟩
  · exact absurd (by rw [hd, runGroup_fault, hf]) h
  · exact absurd (by rw [hd, logEvent_fault, hf]) h
  · rw [hd, raise_of_running s _ hf, markFault]

end Sys2Proof.Machine
end

section
/-! PROOFS of the family `41_vdp_bus_interface`, the tick in which `RW` rises and the latched address asks for a command
(41_vdp_bus_interface R161, R166). The command runs before the raster, so the tick is a tick of the block in which the
command has run already and the lines are high; a command that halts ends it. -/
namespace Sys2Proof.Machine

/-- With every line high a rise of `RW` runs the command in `R[0]`, and then the detectors follow the lines. -/
theorem busStep_release {s : State} {c : Byte} (hf : s.fault = none) (hc : getReg s 0 = c) (has : s.pins.as = true)
    (hds : s.pins.ds = true) (hrw : s.pins.rw = true) (hprev : s.prevRw = false) (hxq : s.xqLatch = true) :
    busStep s = live latchEdges (dispatch c s) := by
  have hrise : rwRise s = dispatch c s := by rw [rwRise, hxq, onlyIf_true, hc]
  simp only [busStep, liveSeq_cons, liveSeq_nil, live_of_running s _ hf, has, hds, hrw, hprev, Bool.not_true,
    Bool.not_false, Bool.and_false, Bool.and_true, onlyIf_false, onlyIf_true, hrise]

/-- In a running block a sequence of sub-steps begins with its first. -/
theorem liveSeq_running {s : State} (h : s.fault = none) (f : State → State) (fs : List (State → State)) :
    liveSeq (f :: fs) s = liveSeq fs (f s) := by
  rw [liveSeq_cons, live_of_running s f h]

/-- A system tick without a memory access, from its VDP ticks on (45_system_tick R311, steps 5 to 11). -/
theorem sysTickWith_atBus {p : CpuPins} {s : State} (hf : s.fault = none) (hmreq : p.mreq = false) :
    sysTickWith p s =
      liveSeq [tickVdp, foldVdp, foldKeyboard, checkTapeRead, tickTape, driveInterrupts, commitTick] (atBus p s) := by
  have hserve : serveMemory (takeCpu p s) = takeCpu p s := by
    rw [serveMemory, takeCpu, hmreq]; rfl
  rw [sysTickWith, liveSeq_running hf, liveSeq_running (s := takeCpu p s) hf, hserve,
    liveSeq_running (s := takeCpu p s) hf, liveSeq_running (s := decodeBus (takeCpu p s)) hf, ← atBus]

theorem atBus_fault (p : CpuPins) (s : State) : (atBus p s).fault = s.fault := rfl

/-- The VDP ticks of a system tick see of a state what its bus step leaves. -/
theorem tickVdp_congr {s t : State} (hs : s.fault = none) (ht : t.fault = none) (hbus : busStep s = busStep t)
    (hconfig : s.config.ratio = t.config.ratio) (hratio : 1 ≤ s.config.ratio) : tickVdp s = tickVdp t := by
  obtain ⟨n, hn⟩ := Nat.exists_eq_add_of_le' hratio
  have hfirst : vdpTick s = vdpTick t := by
    rw [vdpTick, vdpTick, liveSeq_running hs, liveSeq_running ht, hbus]
  rw [tickVdp, tickVdp, ← hconfig, hn, vdpTicks, vdpTicks, live_of_running s _ hs, live_of_running t _ ht, hfirst]

theorem vdpTicks_halted {s : State} {e : Fault} (h : s.fault = some e) (n : Nat) : vdpTicks n s = s := by
  induction n with
  | zero => rfl
  | succ n ih => rw [vdpTicks, live_of_halted s _ e h, ih]

/-- A bus step that halts ends the VDP ticks. -/
theorem tickVdp_halts {s u : State} {e : Fault} (hs : s.fault = none) (hbus : busStep s = u) (hu : u.fault = some e)
    (hratio : 1 ≤ s.config.ratio) : tickVdp s = u := by
  obtain ⟨n, hn⟩ := Nat.exists_eq_add_of_le' hratio
  rw [tickVdp, hn, vdpTicks, live_of_running s _ hs, vdpTick, liveSeq_running hs, hbus, liveSeq_halted _ _ e hu,
    vdpTicks_halted hu]

section
variable {p : CpuPins} {s : State} {c : Byte} (hf : s.fault = none) (hc : getReg s 0 = c)
  (hb : busDecode s.config p = idleBus) (hprev : s.prevRw = false) (hxq : s.xqLatch = true)
include hf hc hb hprev hxq

/-- No command reads or writes the records of a tick. -/
theorem busStep_atBus_release : busStep (atBus p s) = live latchEdges (atBus p (dispatch c s)) := by
  have hdispatch : dispatch c (atBus p s) = atBus p (dispatch c s) :=
    commutes_dispatch (g := atBus p) _ (fun _ _ => rfl) (fun _ => rfl) s
  rw [← hdispatch]
  exact busStep_release (s := atBus p s) hf hc (congrArg BusLines.as hb) (congrArg BusLines.ds hb)
    (congrArg BusLines.rw hb) hprev hxq

/-- A command that raises no fault might as well have run before the tick. -/
theorem busStep_atBus_command (hd : (dispatch c s).fault = none) :
    busStep (atBus p s) = busStep (atBus p (seen idleBus (dispatch c s))) := by
  have hconfig : (dispatch c s).config = s.config := (congrArg State.config (dispatch_frame s c) :)
  have hlines : busDecode (dispatch c s).config p = idleBus := by rw [hconfig, hb]
  have hquiet : busStep (atBus p (seen idleBus (dispatch c s))) = atBus p (seen idleBus (dispatch c s)) :=
    busStep_quiet _ (congrArg BusLines.as hlines) (congrArg BusLines.ds hlines) (congrArg BusLines.rw hlines)
  rw [hquiet, busStep_atBus_release hf hc hb hprev hxq, live_of_running _ _ ((atBus_fault p _).trans hd)]
  simp only [latchEdges, atBus, takeCpu, decodeBus, drivePins, seen, hlines]

variable (hmreq : p.mreq = false) (hratio : 1 ≤ s.config.ratio)
include hmreq hratio

/-- So the tick is one in which the command has run already. -/
theorem sysTickWith_command (hd : (dispatch c s).fault = none) :
    sysTickWith p s = sysTickWith p (seen idleBus (dispatch c s)) := by
  have hconfig : (dispatch c s).config = s.config := (congrArg State.config (dispatch_frame s c) :)
  have hbus := busStep_atBus_command hf hc hb hprev hxq hd
  generalize hx : seen idleBus (dispatch c s) = x at hbus ⊢
  have hxf : x.fault = none := hx ▸ hd
  have hratio' : x.config.ratio = s.config.ratio := by rw [← hx, ← hconfig]; rfl
  rw [sysTickWith_atBus hf hmreq, sysTickWith_atBus hxf hmreq, liveSeq_running (s := atBus p s) hf,
    liveSeq_running (s := atBus p x) hxf,
    tickVdp_congr (s := atBus p s) (t := atBus p x) hf hxf hbus hratio'.symm hratio]

/-- A command that raises a fault ends the tick, which leaves what the command left and the tick's records. -/
theorem sysTickWith_command_halts {e : Fault} (hd : (dispatch c s).fault = some e) :
    sysTickWith p s = atBus p (dispatch c s) := by
  have hhalt : (atBus p (dispatch c s)).fault = some e := (atBus_fault p _).trans hd
  have hbus : busStep (atBus p s) = atBus p (dispatch c s) := by
    rw [busStep_atBus_release hf hc hb hprev hxq, live_of_halted _ _ e hhalt]
  rw [sysTickWith_atBus hf hmreq, liveSeq_running (s := atBus p s) hf,
    tickVdp_halts (s := atBus p s) hf hbus hhalt hratio, liveSeq_halted _ _ e hhalt]

end

/-! ### The idle tick -/

/-- No command sees that a free value was used up. -/
theorem dispatch_bumpFree (c : Byte) (s : State) : dispatch c (bumpFree s) = bumpFree (dispatch c s) :=
  commutes_dispatch (g := bumpFree) c (fun _ _ => rfl) (fun _ => rfl) s

section
variable {s : State} {c : Byte} (hf : s.fault = none) (hc : getReg s 0 = c) (hprev : s.prevRw = false)
  (hxq : s.xqLatch = true) (hratio : 1 ≤ s.config.ratio)
include hf hc hprev hxq hratio

/-- The idle tick after a write that asked for a command is one after the command. -/
theorem idleTick_command (hd : (dispatch c s).fault = none) : idleTick s = idleTick (seen idleBus (dispatch c s)) := by
  have hpins : idleTickPins (dispatch c s) = idleTickPins s := (congrArg idleTickPins (dispatch_frame s c) :)
  have hcommand := sysTickWith_command (p := idleTickPins s) (s := bumpFree s) hf hc (busDecode_idleTickPins _ s) hprev
    hxq rfl hratio (by rw [dispatch_bumpFree]; exact hd)
  have hafter : (seen idleBus (dispatch c s)).fault = none := hd
  rw [idleTick, live_of_running s _ hf, hcommand, dispatch_bumpFree, idleTick, live_of_running _ _ hafter, ← hpins]
  rfl

/-- Where the command halts, the idle tick leaves what the command left. -/
theorem idleTick_command_halts {e : Fault} (hd : (dispatch c s).fault = some e) :
    UpToTick (idleTick s) (dispatch c s) := by
  have hcommand := sysTickWith_command_halts (p := idleTickPins s) (s := bumpFree s) hf hc (busDecode_idleTickPins _ s)
    hprev hxq rfl hratio (by rw [dispatch_bumpFree]; exact hd)
  rw [idleTick, live_of_running s _ hf, hcommand, dispatch_bumpFree]
  generalize dispatch c s = d
  cases d
  rfl

end

end Sys2Proof.Machine
end

section
/-! PROOFS of the family `41_vdp_bus_interface`, idle ticks in any character mode (43_vdp_raster R227). A command may
have chosen a mode that a row reload faults on; nothing else can halt an idle block, and nothing of what a command
changes is touched. Each sub-step of a tick is shown to keep that, so every sequence of them does. -/
namespace Sys2Proof.Machine

/-! ### Sub-steps of an idle tick -/

/-- What idle ticks leave as it is: the parts of a command, its execute bit, the detectors and the write-data line. -/
def idlePart (s : State) :
    (Vector Byte 8 × Vector Byte 8 × DerivedCfg × Memory × List LogEvent × Bool) × (Level × Level × Level) ×
      (Level × Level) :=
  ((s.r, s.ir, s.cfg, s.vram, s.log, s.xqLatch), (s.prevAs, s.prevDs, s.prevRw), (s.tape.wdLatch, s.tape.wdPrev))

/-- That part and the levels that a tick puts on the lines. -/
def idleView (s : State) :=
  (idlePart s, s.bus, s.pins.as, s.pins.ds, s.pins.rw)

/-- A tick with every line high is in progress, and the detectors have seen the lines. -/
structure InIdleTick (s : State) : Prop where
  bus : s.bus = idleBus
  levels : s.pins.as = s.prevAs ∧ s.pins.ds = s.prevDs ∧ s.pins.rw = s.prevRw
  wire : s.tape.wdLatch = s.tape.wdPrev

/-- `t` is `s` in what idle ticks leave, and is not halted but by the character mode. -/
structure OnlyModeFaults {α : Type} (view : State → α) (s t : State) : Prop where
  same : view t = view s
  fault : t.fault = none ∨ t.fault = charModeFault s.cfg.charMode

/-- The sub-step, in an idle tick, leaves that part and the levels, and raises no fault but the character mode's. -/
def IdleStep (f : State → State) : Prop :=
  ∀ s, s.fault = none → InIdleTick s → OnlyModeFaults idleView s (f s)

theorem cfg_of_idleView {s t : State} (h : idleView t = idleView s) : t.cfg = s.cfg := by
  simp only [idleView, idlePart, Prod.mk.injEq] at h
  obtain ⟨⟨⟨-, -, hcfg, -, -, -⟩, -⟩, -⟩ := h
  exact hcfg

theorem InIdleTick.of_idleView {s t : State} (hs : InIdleTick s) (h : idleView t = idleView s) : InIdleTick t := by
  obtain ⟨hb, hlevels, hwire⟩ := hs
  simp only [idleView, idlePart, Prod.mk.injEq] at h
  obtain ⟨⟨-, ⟨has, hds, hrw⟩, hlatch, hprev⟩, hbus, hpas, hpds, hprw⟩ := h
  refine ⟨hbus.trans hb, ?_, ?_⟩
  · rwa [has, hds, hrw, hpas, hpds, hprw]
  · rwa [hlatch, hprev]

theorem OnlyModeFaults.trans {s t u : State} (h : OnlyModeFaults idleView s t) (hu : OnlyModeFaults idleView t u) :
    OnlyModeFaults idleView s u :=
  ⟨hu.same.trans h.same, by rw [← cfg_of_idleView h.same]; exact hu.fault⟩

theorem onlyModeFaults_refl {s : State} (hf : s.fault = none) : OnlyModeFaults idleView s s := ⟨rfl, .inl hf⟩

theorem idleStep_of_leaves {f : State → State} (hview : Leaves idleView f) (hfault : Leaves State.fault f) :
    IdleStep f := fun s hf _ => ⟨hview s, .inl ((hfault s).trans hf)⟩

theorem idleStep_onlyIf {f : State → State} (b : Bool) (h : IdleStep f) : IdleStep (onlyIf b f) := fun s hf hs => by
  cases b
  · exact onlyModeFaults_refl hf
  · exact h s hf hs

theorem idleStep_nil : IdleStep (liveSeq []) := fun _ hf _ => onlyModeFaults_refl hf

/-- A sequence of sub-steps is one if its first is one and the rest is. -/
theorem idleStep_cons {f : State → State} {fs : List (State → State)} (h : IdleStep f) (hfs : IdleStep (liveSeq fs)) :
    IdleStep (liveSeq (f :: fs)) := fun s hf hs => by
  have hfirst := h s hf hs
  rw [liveSeq_running hf]
  cases ht : (f s).fault with
  | none => exact hfirst.trans (hfs _ ht (hs.of_idleView hfirst.same))
  | some e => rw [liveSeq_halted _ _ e ht]; exact hfirst

/-! ### The raster -/

/-- A row reload raises the fault of the character mode, if it has one (43_vdp_raster R227). -/
theorem rowReload_fault {s : State} (hf : s.fault = none) (k : Nat) :
    (rowReload k s).fault = charModeFault s.cfg.charMode := by
  simp only [rowReload]
  split
  · next h => rw [h]; exact hf
  · next e h => rw [h, raise_of_running s e hf]

theorem idleStep_rowReload (k : Nat) : IdleStep (rowReload k) := fun s hf _ =>
  ⟨(congrArg idleView (rowReload_restore s k) :), .inr (rowReload_fault hf k)⟩

theorem idleStep_reloadStep (k sl : Nat) : IdleStep (reloadStep k sl) := fun s =>
  have hquad : IdleStep quadrantPass := idleStep_of_leaves (fun _ => rfl) fun _ => rfl
  idleStep_onlyIf _ (idleStep_cons (idleStep_rowReload k) (idleStep_cons hquad idleStep_nil)) s

theorem idleStep_cellStep (sl al : Nat) : IdleStep (cellStep sl al) := fun s hf _ => by
  obtain ⟨m, hm⟩ := cellStep_eq sl al s
  rw [hm]
  exact ⟨rfl, .inl hf⟩

theorem idleStep_rasterAct : IdleStep rasterAct := fun s hf hs => by
  rcases rasterAct_cases s with he | ⟨-, -, he⟩ | ⟨al, -, -, -, he⟩ <;> rw [he]
  · exact onlyModeFaults_refl hf
  · exact ⟨rfl, .inl hf⟩
  · exact idleStep_cons (idleStep_reloadStep _ _) (idleStep_cons (idleStep_cellStep _ _) idleStep_nil) s hf hs

theorem idleStep_advance : IdleStep advance := fun s hf _ => by
  obtain ⟨k, l, h⟩ := advance_eq s
  rw [h]
  exact ⟨rfl, .inl hf⟩

theorem idleStep_rasterStep : IdleStep rasterStep :=
  have hsync : IdleStep syncOut := idleStep_of_leaves (fun _ => rfl) fun _ => rfl
  idleStep_cons idleStep_rasterAct (idleStep_cons hsync (idleStep_cons idleStep_advance idleStep_nil))

/-! ### The rest of a tick -/

theorem idleStep_busStep : IdleStep busStep := fun s hf ⟨_, ⟨has, hds, hrw⟩, _⟩ => by
  rw [busStep_quiet s has hds hrw]
  exact onlyModeFaults_refl hf

theorem idleStep_vdpTick : IdleStep vdpTick :=
  have hpins : IdleStep returnPins := idleStep_of_leaves (fun _ => rfl) fun _ => rfl
  idleStep_cons idleStep_busStep (idleStep_cons idleStep_rasterStep (idleStep_cons hpins idleStep_nil))

theorem idleStep_vdpTicks (n : Nat) : IdleStep (vdpTicks n) := fun s hf hs => by
  induction n generalizing s with
  | zero => exact onlyModeFaults_refl hf
  | succ n ih =>
    have hfirst := idleStep_vdpTick s hf hs
    rw [vdpTicks, live_of_running s _ hf]
    cases ht : (vdpTick s).fault with
    | none => exact hfirst.trans (ih _ ht (hs.of_idleView hfirst.same))
    | some e => rw [vdpTicks_halted ht]; exact hfirst

theorem idleStep_foldKeyboard : IdleStep foldKeyboard := fun s hf ⟨hbus, _, _⟩ => by
  have hkbd : s.bus.kbd = true := congrArg BusLines.kbd hbus
  rw [foldKeyboard, hkbd]
  exact onlyModeFaults_refl hf

theorem idleStep_checkTapeRead : IdleStep checkTapeRead := fun s hf ⟨hbus, _, _⟩ => by
  rw [checkTapeRead_high (congrArg BusLines.tapeRd hbus)]
  exact onlyModeFaults_refl hf

theorem idleStep_tickTape : IdleStep tickTape := fun s hf ⟨hbus, _, hwire⟩ => by
  rw [tickTape, tapeTick_sameLevel hwire (.inl (congrArg BusLines.tapeWr hbus))]
  exact ⟨rfl, .inl hf⟩

theorem idleStep_foldVdp : IdleStep foldVdp := fun s hf _ => by
  rw [foldVdp_eq]
  exact ⟨rfl, .inl hf⟩

/-- A tick from its VDP ticks on. -/
theorem idleStep_fromVdpTicks :
    IdleStep (liveSeq [tickVdp, foldVdp, foldKeyboard, checkTapeRead, tickTape, driveInterrupts, commitTick]) :=
  have hvdp : IdleStep tickVdp := fun s => idleStep_vdpTicks _ s
  have hints : IdleStep driveInterrupts := idleStep_of_leaves (fun _ => rfl) fun _ => rfl
  have hcommit : IdleStep commitTick := idleStep_of_leaves (fun _ => rfl) fun _ => rfl
  idleStep_cons hvdp <| idleStep_cons idleStep_foldVdp <| idleStep_cons idleStep_foldKeyboard <|
    idleStep_cons idleStep_checkTapeRead <| idleStep_cons idleStep_tickTape <| idleStep_cons hints <|
      idleStep_cons hcommit idleStep_nil

/-! ### Whole ticks -/

theorem idlePart_of_idleView {s t : State} (h : idleView t = idleView s) : idlePart t = idlePart s :=
  congrArg Prod.fst h

/-- The records with which a tick's VDP ticks begin are none of what idle ticks leave. -/
theorem idlePart_atBus (p : CpuPins) (s : State) : idlePart (atBus p s) = idlePart s := by cases s; rfl

theorem inIdleTick_atBus {p : CpuPins} {s : State} (hb : busDecode s.config p = idleBus) (hidle : BusIdle s)
    (hwire : s.tape.wdLatch = s.tape.wdPrev) : InIdleTick (atBus p s) := by
  obtain ⟨has, hds, hrw⟩ := hidle
  exact
    { bus := hb, wire := hwire
      levels := ⟨(congrArg BusLines.as hb).trans has.symm, (congrArg BusLines.ds hb).trans hds.symm,
        (congrArg BusLines.rw hb).trans hrw.symm⟩ }

section
variable {s : State} (hf : s.fault = none) (hidle : BusIdle s) (hwire : s.tape.wdLatch = s.tape.wdPrev)
include hf hidle hwire

/-- A tick with every line high. -/
theorem sysTickWith_idlePart {p : CpuPins} (hmreq : p.mreq = false) (hb : busDecode s.config p = idleBus) :
    OnlyModeFaults idlePart s (sysTickWith p s) := by
  obtain ⟨hview, hfault⟩ := idleStep_fromVdpTicks (atBus p s) hf (inIdleTick_atBus hb hidle hwire)
  rw [sysTickWith_atBus hf hmreq]
  exact ⟨(idlePart_of_idleView hview).trans (idlePart_atBus p s), hfault⟩

theorem idleTick_idlePart : OnlyModeFaults idlePart s (idleTick s) := by
  have htick := sysTickWith_idlePart (s := bumpFree s) hf hidle hwire (p := idleTickPins s) rfl
    (busDecode_idleTickPins _ s)
  obtain ⟨hview, hfault⟩ := htick
  rw [idleTick, live_of_running s _ hf]
  exact ⟨hview, hfault⟩

/-- Idle ticks in any mode. -/
theorem repeatTick_idleTick_idlePart (n : Nat) : OnlyModeFaults idlePart s (repeatTick idleTick n s) := by
  induction n generalizing s with
  | zero => exact ⟨rfl, .inl hf⟩
  | succ n ih =>
    have hfirst := idleTick_idlePart hf hidle hwire
    have hparts := hfirst.same
    simp only [idlePart, Prod.mk.injEq] at hparts
    obtain ⟨⟨-, -, hcfg, -, -, -⟩, ⟨has, hds, hrw⟩, hlatch, hprev⟩ := hparts
    rw [repeatTick]
    cases ht : (idleTick s).fault with
    | none =>
      obtain ⟨hview, hfault⟩ := ih ht (by rwa [BusIdle, has, hds, hrw]) (by rwa [hlatch, hprev])
      exact ⟨hview.trans hfirst.same, by rw [← hcfg]; exact hfault⟩
    | some e => rw [repeatTick_fixed _ n (idleTick_halted ht)]; exact hfirst

end

end Sys2Proof.Machine
end

section
/-! PROOFS of the family `41_vdp_bus_interface`, a data write that executes (30_encoding R130, 70_reset R373, 20_memory
R91). The strobe stores the byte; the first idle tick, in which `RW` rises, runs the command; the rest is idle ticks. -/
namespace Sys2Proof.Machine

/-- The block with the byte stored and the execute bit latched: what the command of an executing write starts from. -/
def executing (n : BitVec 3) (v : Byte) (s : State) : State := { setReg n v s with xqLatch := true }

/-- What the command in `R[0]` gives then. -/
def executed (n : BitVec 3) (v : Byte) (s : State) : State := dispatch (getReg (setReg n v s) 0) (executing n v s)

theorem executed_frame (n : BitVec 3) (v : Byte) (s : State) :
    restoreCommand (executing n v s) (executed n v s) = executing n v s := dispatch_frame _ _

/-- The ticks of a write strobe on a port that leaves the tape alone: the strobe, and time. -/
theorem strobeTicks_upToTick {b : BusLines} {s : State} {port v : Byte} (hs : BusReady s)
    (hb : busDecode s.config (portCycle port true) = b) (hrd : b.tapeRd = true) (hwr : b.tapeWr = true) (m : Nat) :
    UpToTick (repeatTick (outTick port v) (m + 1) s) (passTime (1 + m) (strobed b v s)) := by
  have hx := ticking_congr (tickingPart_strobed b v s) hs.ticking
  have hfirst : UpToTick (outTick port v s) (passTime 1 (strobed b v s)) := by
    rw [outTick, live_of_running s _ hs.running]
    exact (sysTickWith_quiet (p := outPins port v s) hs.ticking rfl hb (noCommand_of_idle b hs.idle) hrd (.inl hwr)).1
  exact repeatTick_passTime
    (outTick_steady hx (shows_strobed b v s) ((strobed_config b v s).symm ▸ hb) hrd (.inl hwr)) m hfirst

/-- The strobe of a data write stores the byte, and `RW` stays low. -/
theorem strobed_portDs {s : State} (hs : BusReady s) (v : Byte) :
    let b := busDecode s.config (portCycle s.config.portDs true)
    UpToTick (strobed b v s) (seen b (rwFall v s)) := by
  intro b
  obtain ⟨-, -, hlines, -⟩ := hs.ports
  obtain ⟨has, hds, hrw, -⟩ := sixLines_eq hlines
  have hidle : BusIdle (undriven s) := hs.idle
  have hstrobes : strobes b v (undriven s) = rwFall v (undriven s) := by
    rw [strobes_of_idle v hidle, has, hds, hrw]; rfl
  rw [strobed, hstrobes]
  exact ((upToTick_undriven s).map (ignores_rwFall v)).map (ignores_seen b)

/-- The block at the end of an executing write's strobe: the byte is stored, the address latched, `RW` low. -/
structure StrobeEnd (n : BitVec 3) (v : Byte) (s x : State) (b : BusLines) (k : Nat) : Prop where
  same : UpToTick x (passTime k (seen b (asFall (addrByteX n) true (executing n v s))))
  low : b.rw = false

section
variable {n : BitVec 3} {v : Byte} {s x : State} {b : BusLines} {k : Nat} (hx : StrobeEnd n v s x b k)
include hx

/-- The command runs there as it runs in the block with the byte stored. -/
theorem StrobeEnd.dispatched :
    UpToTick (dispatch (getReg (setReg n v s) 0) x)
      (passTime k (seen b (asFall (addrByteX n) true (executed n v s)))) := by
  have hignore : IgnoresFreeParts (dispatch (getReg (setReg n v s) 0)) := fun u =>
    commutes_dispatch (g := restoreTick u) _ (fun _ _ => rfl) fun _ => rfl
  have hcommutes := commutes_dispatch (g := fun t => passTime k (seen b (asFall (addrByteX n) true t)))
    (getReg (setReg n v s) 0) (fun _ _ => rfl) (fun _ => rfl) (executing n v s)
  have hd := hx.same.map hignore
  rwa [hcommutes] at hd

theorem StrobeEnd.getReg_zero : getReg x 0 = getReg (setReg n v s) 0 := hx.same.part (getReg · 0)

theorem StrobeEnd.prevRw : x.prevRw = false := (hx.same.part State.prevRw).trans hx.low

theorem StrobeEnd.xqLatch : x.xqLatch = true := (hx.same.part State.xqLatch).trans (addrByteX_bits n).1

theorem StrobeEnd.config : x.config = s.config := hx.same.part State.config

theorem StrobeEnd.fault : x.fault = s.fault := hx.same.part State.fault

end

section
variable {s : State} {t1 t2 : BusTiming} (hs : BusReady s) (h1 : t1.wf = true) (h2 : t2.wf = true)
include hs h1 h2

/-- WREGX up to the idle ticks of its data cycle. -/
theorem writeRegX_strobe (n : BitVec 3) (v : Byte) :
    ∃ x b k j, writeRegX n v t1 t2 s = repeatTick idleTick (j + 1) x ∧ k + (j + 1) = cycleTicks t1 + cycleTicks t2 ∧
      StrobeEnd n v s x b k := by
  obtain ⟨-, h5, hn⟩ := addrByteX_bits n
  obtain ⟨m, j, hm, hj, hticks⟩ := cycleTicks_of_wf h2
  have haddr := busOut_portAs hs h1 (addrByteX n)
  have hready := busReady_busOut_portAs hs h1 (addrByteX n)
  have hconfig := busOut_portAs_config hs h1 (addrByteX n)
  obtain ⟨-, -, hlines, -⟩ := hready.ports
  obtain ⟨-, -, hrw, -, hrd, hwr⟩ := sixLines_eq hlines
  have hstrobe := (strobeTicks_upToTick (v := v) hready rfl hrd hwr m).trans
    ((strobed_portDs hready v).map (ignores_passTime _))
  have hx := haddr.afterCycle (f := fun t => seen _ (rwFall v t)) hstrobe
    (fun u t => congrArg (seen _) (ignores_rwFall v u t)) fun t => congrArg (seen _) (rwFall_passTime v _ t)
  rw [rwFall_asFall h5, hn] at hx
  refine ⟨_, _, _, j, ?_, ?_, hx, hrw⟩
  · rw [writeRegX, busOut, hm, hj, hconfig]
  · omega

/-- A command that raises no fault has run, and the lines are high, before the idle ticks of the data cycle. -/
theorem writeRegX_runs (n : BitVec 3) (v : Byte) (hd : (executed n v s).fault = none) :
    ∃ x k j, writeRegX n v t1 t2 s = repeatTick idleTick (j + 1) x ∧ k + (j + 1) = cycleTicks t1 + cycleTicks t2 ∧
      UpToTick x (passTime k (seen idleBus (asFall (addrByteX n) true (executed n v s)))) := by
  obtain ⟨x, b, k, j, hwrite, hticks, hx⟩ := writeRegX_strobe hs h1 h2 n v
  have hrun := hx.dispatched
  have hcommand := idleTick_command (hx.fault.trans hs.running) hx.getReg_zero hx.prevRw hx.xqLatch
    (hx.config ▸ hs.ratio) ((hrun.part State.fault).trans hd)
  have hreleased := hrun.map (ignores_seen idleBus)
  refine ⟨_, k, j, ?_, hticks, hreleased⟩
  rw [hwrite, repeatTick, hcommand, repeatTick]

/-- A command that raises a fault ends the write. -/
theorem writeRegX_halts (n : BitVec 3) (v : Byte) {e : Fault} (hd : (executed n v s).fault = some e) :
    ∃ b k, UpToTick (writeRegX n v t1 t2 s) (passTime k (seen b (asFall (addrByteX n) true (executed n v s)))) := by
  obtain ⟨x, b, k, j, hwrite, -, hx⟩ := writeRegX_strobe hs h1 h2 n v
  have hrun := hx.dispatched
  have htick := idleTick_command_halts (hx.fault.trans hs.running) hx.getReg_zero hx.prevRw hx.xqLatch
    (hx.config ▸ hs.ratio) ((hrun.part State.fault).trans hd)
  have hall := htick.trans hrun
  have hhalt : (idleTick x).fault = some e := (hall.part State.fault).trans hd
  refine ⟨b, k, ?_⟩
  rwa [hwrite, repeatTick, repeatTick_fixed _ j (idleTick_halted hhalt)]

/-- What the idle ticks after a command leave, in any character mode. -/
theorem writeRegX_idlePart (n : BitVec 3) (v : Byte) (hd : (executed n v s).fault = none) :
    OnlyModeFaults idlePart (seen idleBus (asFall (addrByteX n) true (executed n v s))) (writeRegX n v t1 t2 s) := by
  obtain ⟨x, k, j, hwrite, -, hx⟩ := writeRegX_runs hs h1 h2 n v hd
  have hwire : (executed n v s).tape.wdLatch = (executed n v s).tape.wdPrev := by
    have htape : (executed n v s).tape = s.tape := (congrArg State.tape (executed_frame n v s) :)
    rw [htape, hs.wire]
  have hidle : Shows idleBus x := shows_of_upToTick hx ⟨rfl, rfl, rfl⟩
  obtain ⟨hview, hfault⟩ := repeatTick_idleTick_idlePart ((hx.part State.fault).trans hd) hidle
    ((congrArg Tape.wdLatch (hx.part State.tape)).trans (hwire.trans (congrArg Tape.wdPrev (hx.part State.tape)).symm))
    (j + 1)
  rw [hwrite]
  refine ⟨hview.trans (hx.part idlePart), ?_⟩
  rwa [hx.part State.cfg] at hfault

/-- In an accepted mode they let only time pass. -/
theorem writeRegX_upToTick (n : BitVec 3) (v : Byte) (hd : (executed n v s).fault = none)
    (hm : ModeAccepted (executed n v s)) :
    UpToTick (writeRegX n v t1 t2 s)
      (passTime (cycleTicks t1 + cycleTicks t2) (seen idleBus (asFall (addrByteX n) true (executed n v s)))) := by
  obtain ⟨x, k, j, hwrite, hticks, hx⟩ := writeRegX_runs hs h1 h2 n v hd
  have hframe := executed_frame n v s
  have hconfig : (executed n v s).config = s.config := (congrArg State.config hframe :)
  have htape : (executed n v s).tape = s.tape := (congrArg State.tape hframe :)
  have hticking : Ticking (seen idleBus (asFall (addrByteX n) true (executed n v s))) :=
    ticking_congr (s := executed n v s) rfl
      { running := hd, ratio := hconfig ▸ hs.ratio, mode := hm, wire := by rw [htape, hs.wire] }
  rw [hwrite, ← hticks]
  exact repeatTick_passTime (idleTick_steady hticking ⟨rfl, rfl, rfl⟩) (j + 1) hx

end

/-- Settles O59: the command runs in the first idle tick, as it runs in the block with the byte stored. -/
theorem executingWriteRunsTheCommand : Obligations.ExecutingWriteRunsTheCommand := by
  intro s n v t1 t2 hs h1 h2 ticks stored op
  have hrunning : (executing n v s).fault = none := hs.running
  have hframe := executed_frame n v s
  refine ⟨executed n v s, exec_vbRwRise_dispatch hrunning rfl, fun hclass =>
    exec_decodeCmd_eq_dispatch hrunning hclass, writeRegX n v t1 t2 s, exec_wregx s h1 h2 n v, ?_, fun hfault => ?_,
    fun hd => ?_, fun hd hm => ?_⟩
  · rintro rfl
    exact exec_cmd s h1 h2 v
  · obtain ⟨e, he⟩ := Option.ne_none_iff_exists'.1 hfault
    obtain ⟨b, k, hu⟩ := writeRegX_halts hs h1 h2 n v he
    have hdone : executed n v s = markFault _ (executing n v s) := dispatch_faults hrunning hfault
    have hr : (executed n v s).r = stored.r := (congrArg State.r hdone :)
    have hvram : (executed n v s).vram = stored.vram := (congrArg State.vram hdone :)
    exact ⟨hu.part State.fault, (hu.part State.r).trans hr, (hu.part State.vram).trans hvram⟩
  · obtain ⟨hview, hfault⟩ := writeRegX_idlePart hs h1 h2 n v hd
    simp only [idlePart, Prod.mk.injEq] at hview
    obtain ⟨⟨hr, hir, hcfg, hvram, hlog, hxq⟩, -⟩ := hview
    exact ⟨hr, hir, hcfg, hvram, hlog, hxq.trans (addrByteX_bits n).1, hfault⟩
  · have hu := writeRegX_upToTick hs h1 h2 n v hd hm
    have hcount : (executed n v s).tickCount = s.tickCount := (congrArg State.tickCount hframe :)
    have htape : (executed n v s).tape = s.tape := (congrArg State.tape hframe :)
    refine ⟨(hu.part State.fault).trans hd, ?_, shows_of_upToTick (b := idleBus) hu ⟨rfl, rfl, rfl⟩, ?_⟩
    · rw [← hcount]
      exact hu.part State.tickCount
    · rw [← htape]
      exact hu.part State.tape

end Sys2Proof.Machine
end

section
/-! PROOFS of the family `42_vdp_commands`, the transfers at a pointer (42_vdp_commands R184 to R194). A transfer is its
stores or loads, one rule each, and then the increment of the pointer's column, which is said once for both pointers. -/
namespace Sys2Proof.Machine

/-! ### Stores and loads -/

section
variable (p : Ptr) (j : BitVec 2) (k : BitVec 3) (s : State)

@[simp] theorem getReg_storeReg (i : BitVec 3) : getReg (storeReg p j k s) i = getReg s i := rfl

@[simp] theorem storeReg_config : (storeReg p j k s).config = s.config := rfl

theorem storeReg_onlyVram : { storeReg p j k s with vram := s.vram } = s := rfl

theorem storeReg_vram_wf (h : s.vram.wf = true) : (storeReg p j k s).vram.wf = true := Memory.wf_write _ _ _ h

theorem vramRead_storeReg (h : s.vram.wf = true) (x : BitVec 13) :
    vramRead (storeReg p j k s) x = if x = ptrAddr s.config p j then getReg s k else vramRead s x :=
  vramRead_vramWrite s _ x _ h

theorem getReg_loadReg (i : BitVec 3) :
    getReg (loadReg p j k s) i = if i = k then vramRead s (ptrAddr s.config p j) else getReg s i :=
  getReg_setReg s k i _

theorem loadReg_onlyRegs : OnlyRegs s (loadReg p j k s) := rfl

@[simp] theorem loadReg_config : (loadReg p j k s).config = s.config := rfl

@[simp] theorem vramRead_loadReg (x : BitVec 13) : vramRead (loadReg p j k s) x = vramRead s x := rfl

end

/-! ### The increment of a pointer -/

theorem OnlyRegs.trans {s t u : State} (h1 : OnlyRegs s t) (h2 : OnlyRegs t u) : OnlyRegs s u := by
  have h : ({ u with r := s.r } : State) = { ({ u with r := t.r } : State) with r := s.r } := rfl
  rw [OnlyRegs, h, h2, h1]

/-- A state that differs from `s` in video RAM only, with registers changed. -/
theorem onlyRegsAndVram_of_vram {s t u : State} (ht : { t with vram := s.vram } = s) (hu : OnlyRegs t u) :
    OnlyRegsAndVram s u := by
  have h : ({ u with r := s.r, vram := s.vram } : State) =
      { ({ u with r := t.r } : State) with r := s.r, vram := s.vram } := rfl
  have hr : s.r = t.r := (congrArg State.r ht).symm
  rw [OnlyRegsAndVram, h, hu, hr, ht]

/-- A column register before and after a transfer: it moves on if bit I is set. -/
def ColumnMoved (inc : Bool) (v v' : Byte) : Prop := (inc = true → ColumnBumped v v') ∧ (inc = false → v' = v)

/-- The increment that bit I asks for, of the pointer with its column in register `k` (R186): `incMp` and `incAp`. -/
def moveOn (k : BitVec 3) (inc carry : Bool) : State → State := onlyIf inc (incCol k carry)

theorem incMp_eq_moveOn (inc carry : Bool) : incMp inc carry = moveOn 7 inc carry := rfl

theorem incAp_eq_moveOn (inc : Bool) : incAp inc = moveOn 5 inc false := rfl

section
variable (k : BitVec 3) (inc carry : Bool) (s : State)

theorem moveOn_onlyRegs : OnlyRegs s (moveOn k inc carry s) := by
  cases inc
  · rfl
  · exact incCol_onlyRegs s k carry

@[simp] theorem vramRead_moveOn (x : BitVec 13) : vramRead (moveOn k inc carry s) x = vramRead s x :=
  (congrArg (vramRead · x) (moveOn_onlyRegs k inc carry s) :)

theorem getReg_moveOn_other {i : BitVec 3} (hcol : i ≠ k) (hrow : carry = true → i ≠ k - 1) :
    getReg (moveOn k inc carry s) i = getReg s i := by
  cases inc
  · rfl
  · rw [moveOn, onlyIf_true, incCol_getReg, if_neg hcol, if_neg]
    rintro ⟨hcarry, hi⟩
    exact hrow (Bool.and_eq_true_iff.1 hcarry).1 hi

theorem moveOn_column : ColumnMoved inc (getReg s k) (getReg (moveOn k inc carry s) k) := by
  refine ⟨?_, ?_⟩ <;> rintro rfl
  · rw [moveOn, onlyIf_true, incCol_getReg, if_pos rfl]
    exact incColByte_bumps _
  · rfl

/-- The carry into the row register: on a wrap of the column and not otherwise (R184). -/
theorem moveOn_row :
    (ColumnWraps (getReg s k) → RowBumped (getReg s (k - 1)) (getReg (moveOn k true true s) (k - 1))) ∧
    (¬ ColumnWraps (getReg s k) → getReg (moveOn k true true s) (k - 1) = getReg s (k - 1)) := by
  have hk : k - 1 ≠ k := by revert k; decide
  have hcarry : (true && colWraps ((getReg s k).extractLsb' 0 6)) = true ↔ ColumnWraps (getReg s k) :=
    decide_eq_true_iff
  rw [moveOn, onlyIf_true, incCol_getReg, if_neg hk]
  refine ⟨fun hw => ?_, fun hw => ?_⟩
  · rw [if_pos ⟨hcarry.2 hw, rfl⟩]
    exact incRowByte_bumps _
  · rw [if_neg fun h => hw (hcarry.1 h.1)]

end

/-! ### The transfers -/

/-- The registers after a transfer and an increment without carry: the column register is the pointer's still, and the
registers in `kept` are as the transfer left them. -/
theorem transfer_then_moveOn {s t : State} {k : BitVec 3} {kept : BitVec 3 → Prop} (inc : Bool)
    (hcol : getReg t k = getReg s k) (hkept : ∀ i, kept i → i ≠ k ∧ getReg t i = getReg s i) :
    (∀ i, kept i → getReg (moveOn k inc false t) i = getReg s i) ∧
      ColumnMoved inc (getReg s k) (getReg (moveOn k inc false t) k) := by
  refine ⟨fun i hi => ?_, ?_⟩
  · obtain ⟨hne, hreg⟩ := hkept i hi
    rw [getReg_moveOn_other k inc false t hne nofun, hreg]
  · rw [← hcol]
    exact moveOn_column k inc false t

/-- Settles O17: the stores in order, then the increment, which leaves video RAM. -/
theorem blockStoresAtMp : Obligations.BlockStoresAtMp := by
  intro s inc hf hwf a pointer
  have hwf0 := storeReg_vram_wf (mp s) 0 1 s hwf
  have hwf1 := storeReg_vram_wf (mp s) 1 2 _ hwf0
  have hpointer (t : State) (ht : { t with vram := s.vram } = s) : pointer (moveOn 7 inc false t) := by
    have hreg (i : BitVec 3) : getReg t i = getReg s i := (congrArg (getReg · i) ht :)
    exact ⟨onlyRegsAndVram_of_vram ht (moveOn_onlyRegs 7 inc false t),
      transfer_then_moveOn inc (hreg 7) fun i hi => ⟨hi, hreg i⟩⟩
  refine ⟨⟨krfW inc s, exec_of_live hf rfl rfl, hpointer _ rfl, fun x => ?_⟩,
    ⟨krgW inc s, exec_of_live hf rfl rfl, hpointer _ rfl, fun x => ?_⟩⟩
  · simp only [krfW, incMp_eq_moveOn, vramRead_moveOn, vramRead_storeReg _ _ _ _ hwf1, vramRead_storeReg _ _ _ _ hwf0,
      vramRead_storeReg _ _ _ _ hwf, getReg_storeReg, storeReg_config, a]
  · simp only [krgW, incMp_eq_moveOn, vramRead_moveOn, vramRead_storeReg _ _ _ _ hwf0, vramRead_storeReg _ _ _ _ hwf,
      getReg_storeReg, storeReg_config, a]

/-- Settles O18: the loads find video RAM as it was, and neither they nor the increment change another register. -/
theorem blockLoadsAtMp : Obligations.BlockLoadsAtMp := by
  intro s inc hf byte pointer
  have hpointer (t : State) (ht : OnlyRegs s t)
      (hother : ∀ i, i ∉ [1#3, 2#3, 3#3] → getReg t i = getReg s i) : pointer (moveOn 7 inc false t) := by
    refine ⟨ht.trans (moveOn_onlyRegs 7 inc false t), transfer_then_moveOn inc (hother 7 (by decide)) fun i hi => ?_⟩
    have hi7 : i ≠ 7 ∧ i ∉ [1#3, 2#3, 3#3] := by revert i; decide
    obtain ⟨hcol, hdata⟩ := hi7
    exact ⟨hcol, hother i hdata⟩
  have hne (i : BitVec 3) (hi : i ∉ [1#3, 2#3, 3#3]) : i ≠ 1 ∧ i ≠ 2 ∧ i ≠ 3 := by simpa using hi
  refine ⟨⟨krfR inc s, exec_of_live hf rfl rfl, hpointer _ (by rfl) fun i hi => ?_, ?_⟩,
    ⟨krgR inc s, exec_of_live hf rfl rfl, hpointer _ (by rfl) fun i hi => ?_, ?_⟩⟩
  · obtain ⟨h1, h2, h3⟩ := hne i hi
    rw [getReg_loadReg, if_neg h3, getReg_loadReg, if_neg h2, getReg_loadReg, if_neg h1]
  · simp [krfR, incMp_eq_moveOn, getReg_moveOn_other, getReg_loadReg, byte]
  · obtain ⟨h1, h2, -⟩ := hne i hi
    rw [getReg_loadReg, if_neg h2, getReg_loadReg, if_neg h1]
  · simp [krgR, incMp_eq_moveOn, getReg_moveOn_other, getReg_loadReg, byte]

/-- Settles O19: the transfer at the address before the increment, which carries into the row register on a wrap. -/
theorem byteTransfersAtMp : Obligations.ByteTransfersAtMp := by
  intro s inc hf hwf a pointer
  have hpointer (t : State) (hother : ∀ i, i ≠ 1 → getReg t i = getReg s i) : pointer (moveOn 7 inc true t) := by
    have h6 : getReg t 6 = getReg s 6 := hother 6 (by decide)
    have h7 : getReg t 7 = getReg s 7 := hother 7 (by decide)
    obtain ⟨hbump, hsame⟩ := moveOn_column 7 inc true t
    obtain ⟨hcarry, hnoCarry⟩ := moveOn_row 7 t
    rw [h7] at hbump hsame hcarry hnoCarry
    refine ⟨fun i hi => ?_, hbump, ?_, ?_, ?_⟩
    · have hne : i ≠ 7 ∧ i ≠ 7 - 1 ∧ i ≠ 1 := by revert i; decide
      obtain ⟨hcol, hrow, h1⟩ := hne
      rw [getReg_moveOn_other 7 inc true t hcol fun _ => hrow, hother i h1]
    · rintro rfl hw
      exact h6 ▸ hcarry hw
    · rintro rfl hw
      exact (hnoCarry hw).trans h6
    · rintro rfl
      exact ⟨hsame rfl, h6⟩
  refine ⟨⟨octWMp inc s, exec_of_live hf rfl rfl,
      onlyRegsAndVram_of_vram (storeReg_onlyVram ..) (moveOn_onlyRegs 7 inc true _), hpointer _ fun _ _ => rfl, ?_,
      fun x => ?_⟩,
    ⟨octRMp inc s, exec_of_live hf rfl rfl, (loadReg_onlyRegs ..).trans (moveOn_onlyRegs 7 inc true _),
      hpointer _ fun i hi => ?_, ?_⟩⟩
  · simp [octWMp, incMp_eq_moveOn, getReg_moveOn_other]
  · simp only [octWMp, incMp_eq_moveOn, vramRead_moveOn, vramRead_storeReg _ _ _ _ hwf, a]
  · rw [getReg_loadReg, if_neg hi]
  · simp [octRMp, incMp_eq_moveOn, getReg_moveOn_other, getReg_loadReg, a]

/-- Settles O20: as at MP, but the increment never carries. -/
theorem byteTransfersAtAp : Obligations.ByteTransfersAtAp := by
  intro s inc hf hwf a pointer
  have hpointer (t : State) (hother : ∀ i, i ≠ 1 → getReg t i = getReg s i) : pointer (moveOn 5 inc false t) := by
    refine transfer_then_moveOn inc (hother 5 (by decide)) fun i hi => ?_
    have hne : i ≠ 5 ∧ i ≠ 1 := by revert i; decide
    obtain ⟨hcol, h1⟩ := hne
    exact ⟨hcol, hother i h1⟩
  refine ⟨⟨octWAp inc s, exec_of_live hf rfl rfl,
      onlyRegsAndVram_of_vram (storeReg_onlyVram ..) (moveOn_onlyRegs 5 inc false _), hpointer _ fun _ _ => rfl, ?_,
      fun x => ?_⟩,
    ⟨octRAp inc s, exec_of_live hf rfl rfl, (loadReg_onlyRegs ..).trans (moveOn_onlyRegs 5 inc false _),
      hpointer _ fun i hi => ?_, ?_⟩⟩
  · simp [octWAp, incAp_eq_moveOn, getReg_moveOn_other]
  · simp only [octWAp, incAp_eq_moveOn, vramRead_moveOn, vramRead_storeReg _ _ _ _ hwf, a]
  · rw [getReg_loadReg, if_neg hi]
  · simp [octRAp, incAp_eq_moveOn, getReg_moveOn_other, getReg_loadReg, a]

/-- Settles O21: INY is the increment of the row register of MP. -/
theorem inyBumpsTheRow : Obligations.InyBumpsTheRow := by
  intro s p hf
  refine ⟨iny s, exec_of_live hf rfl rfl, incRow_onlyRegs s 6, ?_, fun k hk => ?_⟩
  · rw [iny, incRow_getReg, if_pos rfl]
    exact incRowByte_bumps _
  · rw [iny, incRow_getReg, if_neg hk]

end Sys2Proof.Machine
end

section
/-! PROOFS of the family `42_vdp_commands`, the indirect registers and the commands without effect (42_vdp_commands R197
to R202). -/
namespace Sys2Proof.Machine

/-! ### The derived configuration -/

section
variable (ir : Vector Byte 8)

theorem derive_charMode_toNat : (derive ir).charMode.toNat =
    4 * (ir[3].getLsbD 7).toNat + 2 * (ir[1].getLsbD 7).toNat + (ir[1].getLsbD 6).toNat := by
  simp only [derive, toNat_append_eq_add, BitVec.toNat_ofBool]
  omega

theorem derive_blockOrigin_toNat : (derive ir).blockOrigin.toNat = ir[7].toNat / 32 % 4 := by
  rw [derive, BitVec.extractLsb'_toNat, Nat.shiftRight_eq_div_pow]

theorem derive_originRow_toNat : (derive ir).originRow.toNat = ir[7].toNat % 32 := by
  rw [derive, BitVec.extractLsb'_toNat, Nat.shiftRight_zero]

end

/-- The configuration is read from the indirect registers 1, 3 and 7 only (30_encoding R114 to R117). -/
theorem derive_congr {ir ir' : Vector Byte 8} (h1 : ir'[1] = ir[1]) (h3 : ir'[3] = ir[3]) (h7 : ir'[7] = ir[7]) :
    derive ir' = derive ir := by
  rw [derive, h1, h3, h7, derive]

/-! ### Indirect access -/

theorem decodeCmd_indW : ∀ r : BitVec 3, decodeCmd (0b10000#5 ++ r) = .indW r := by decide

theorem decodeCmd_indR : ∀ r : BitVec 3, decodeCmd (0b10001#5 ++ r) = .indR r := by decide

/-- An indirect write stores register 1; the recomputation leaves the indirect registers. -/
theorem getIReg_indW (r k : BitVec 3) (s : State) :
    getIReg (indW r s) k = if k = r then getReg s 1 else getIReg s k := by
  split
  · next h => exact h ▸ getIReg_setIReg_same s k _
  · next h => exact getIReg_setIReg_other s r k _ h

/-- Settles O22: the write, and `Derive` of the indirect registers it leaves. -/
theorem indirectWriteRecomputes : Obligations.IndirectWriteRecomputes := by
  intro s r hf
  refine ⟨decodeCmd_indW r, indW r s, exec_of_live hf rfl rfl, rfl, (getIReg_indW r · s), rfl, rfl,
    derive_charMode_toNat _, derive_blockOrigin_toNat _, derive_originRow_toNat _, fun hcfg hr => ?_⟩
  have hkept (k : BitVec 3) (hk : k ∈ [1#3, 3#3, 7#3]) : getIReg (indW r s) k = getIReg s k := by
    have hne : k ≠ r := by revert k r; decide
    rw [getIReg_indW, if_neg hne]
  rw [hcfg]
  exact derive_congr (hkept 1 (by decide)) (hkept 3 (by decide)) (hkept 7 (by decide))

/-- Settles O23: a read is a write of register 1; it finds what the last write of its index left. -/
theorem indirectReadsBack : Obligations.IndirectReadsBack := by
  intro s r hf
  refine ⟨decodeCmd_indR r, ⟨indR r s, exec_of_live hf rfl rfl, rfl, getReg_setReg_same s 1 _, fun k hk => ?_⟩,
    indW r s, exec_of_live hf rfl rfl, fun u hu hir => ⟨indR r u, exec_of_live hu rfl rfl, ?_⟩⟩
  · exact getReg_setReg_other s 1 k _ hk
  · have hstored : getIReg u r = getIReg (indW r s) r := congrArg (fun ir : Vector Byte 8 => ir[r.toNat]'r.isLt) hir
    rw [indR, getReg_setReg_same, hstored, getIReg_indW, if_pos rfl]

/-! ### Commands without effect -/

/-- Settles O24: the byte logged is the operation's own command byte. -/
theorem unimplementedCommandsOnlyLog : Obligations.UnimplementedCommandsOnlyLog := by
  intro s hf logs
  have hlogs {i : Instr} {c : Byte} (hexec : exec i s = .next (live (unimpl c) s)) (hc : encodeCmd? i = some c) :
      logs i c := ⟨exec_of_live hf hexec rfl, decodeCmd_of_encodeCmd hc⟩
  exact ⟨fun _ _ _ => hlogs rfl rfl, fun _ _ _ => hlogs rfl rfl, fun _ => ⟨hlogs rfl rfl, hlogs rfl rfl, hlogs rfl rfl,
    hlogs rfl rfl, hlogs rfl rfl, hlogs rfl rfl, hlogs rfl rfl, hlogs rfl rfl, hlogs rfl rfl, hlogs rfl rfl⟩⟩

/-- Settles O25: the raise in a running block. -/
theorem unrecognisedCommandsHalt : Obligations.UnrecognisedCommandsHalt := fun s _ hf =>
  ⟨exec_of_live hf rfl (raise_of_running s _ hf).symm, exec_of_live hf rfl (raise_of_running s _ hf).symm⟩

end Sys2Proof.Machine
end

section
/-! PROOFS of the family `42_vdp_commands`, what a command depends on (42_vdp_commands R203): a part of the state that it
neither reads nor writes can be changed before it or after it. -/
namespace Sys2Proof.Machine

/-! ### Commands and the other parts of the block -/

/-- What a sub-step of a command leaves, said from the state it leaves. -/
theorem restoreCommand_symm {s t : State} (h : restoreCommand s t = s) : restoreCommand t s = t :=
  calc restoreCommand t s
      = restoreCommand t (restoreCommand s t) := by rw [h]
    _ = t := rfl

/-- A change of parts outside the command's can be made before or after a sub-step that acts on the command's parts. -/
theorem commutes_of_actsOnCommand {f g : State → State} (hact : ActsOnCommand f)
    (hframe : ∀ s, restoreCommand s (f s) = s) (hg : ∀ s t, g (restoreCommand s t) = restoreCommand s (g t))
    (hconfig : ∀ s, (g s).config = s.config) : Commutes g f := fun s =>
  calc f (g s)
      = f (restoreCommand s (g s)) := by rw [← hg]; rfl
    _ = restoreCommand (f s) (g s) := hact s (g s) (hconfig s)
    _ = g (restoreCommand (f s) s) := (hg _ _).symm
    _ = g (f s) := by rw [restoreCommand_symm (hframe s)]

theorem actsOnCommand_live {f : State → State} (hf : ActsOnCommand f) : ActsOnCommand (live f) := fun s t h => by
  cases hs : s.fault with
  | none => rw [live_of_running s f hs, live_of_running (restoreCommand s t) f hs, hf s t h]
  | some e => rw [live_of_halted s f e hs, live_of_halted (restoreCommand s t) f e hs]

theorem actsOnCommand_runClass (k : CmdClass) (c : Byte) : ActsOnCommand (runClass k c) := fun s t h => by
  cases k with
  | implemented g => exact actsOnCommand_runGroup g c s t h
  | unimplemented => rfl
  | unrecognised => exact actsOnCommand_raise _ s t h

theorem runClass_frame (k : CmdClass) (c : Byte) (s : State) : restoreCommand s (runClass k c s) = s := by
  cases k with
  | implemented g => exact runGroup_frame s g c
  | unimplemented => rfl
  | unrecognised => exact raise_restoreCommand s _

/-- Only an unrecognised class faults (R202). -/
theorem runClass_fault {k : CmdClass} (hk : k ≠ .unrecognised) (c : Byte) (s : State) :
    (runClass k c s).fault = s.fault := by
  cases k with
  | implemented g => exact runGroup_fault g c s
  | unimplemented => rfl
  | unrecognised => exact absurd rfl hk

/-! ### The operations of the command table -/

theorem decodeCmd_notHostCall : ∀ c : Byte, isHostCall (decodeCmd c) = false := by decide

theorem decodeCmd_unrecognised : ∀ c : Byte, cmdClassRef (cmdOp c) = .unrecognised →
    decodeCmd c = .unknownA (cmdP c) ∨ decodeCmd c = .unknownC (cmdP c) := by decide

/-- What an operation of the command table does: its command byte, under the class of the reference table. -/
def runTable (c : Byte) : State → State := live (runClass (cmdClassRef (cmdOp c)) c)

/-- In a running or a halted block. -/
theorem exec_eq_runTable {i : Instr} {c : Byte} (h : encodeCmd? i = some c) (s : State) :
    exec i s = .next (runTable c s) := by
  cases hf : s.fault with
  | none => rw [runTable, live_of_running s _ hf, exec_command hf h]
  | some e =>
    have hhost : isHostCall i = false := decodeCmd_of_encodeCmd h ▸ decodeCmd_notHostCall c
    rw [runTable, live_of_halted s _ e hf, haltedBlockStays i s e hf hhost (wf_of_encodeCmd h)]

theorem runTable_frame (c : Byte) (s : State) : restoreCommand s (runTable c s) = s := by
  rcases live_cases s (runClass (cmdClassRef (cmdOp c)) c) with ⟨-, h⟩ | ⟨-, h⟩
  · rw [runTable, h, runClass_frame]
  · rw [runTable, h]; rfl

theorem actsOnCommand_runTable (c : Byte) : ActsOnCommand (runTable c) :=
  actsOnCommand_live (actsOnCommand_runClass _ c)

/-- Settles O26: the parts in question are outside the command's, and the fault is that of the class. -/
theorem commandsTouchOnlyTheirParts : Obligations.CommandsTouchOnlyTheirParts := by
  intro i c h s u
  have hcommutes : Commutes (withOtherParts · u) (runTable c) :=
    commutes_of_actsOnCommand (actsOnCommand_runTable c) (runTable_frame c) (fun _ _ => rfl) fun _ => rfl
  refine ⟨runTable c s, exec_eq_runTable h s, ?_, ?_, fun hfault => ?_⟩
  · rw [← restoreCommand_symm (runTable_frame c s)]
    rfl
  · rw [exec_eq_runTable h, hcommutes s]
  · have hclass : cmdClassRef (cmdOp c) = .unrecognised := by
      by_contra hclass
      exact hfault (leaves_live (p := State.fault) (runClass_fault hclass c) s)
    rw [← decodeCmd_of_encodeCmd h]
    exact (decodeCmd_unrecognised c hclass).imp (fun hi => ⟨_, hi⟩) fun hi => ⟨_, hi⟩

end Sys2Proof.Machine
end

section
/-! PROOFS of the family `42_vdp_commands`, the two pointers (42_vdp_commands R195). A sub-step that neither reads nor
writes a register runs the same before and after a write of it. -/
namespace Sys2Proof.Machine

/-! ### Registers that a sub-step neither reads nor writes -/

/-- The sub-step neither reads nor writes register `k`. -/
def Avoids (k : BitVec 3) (f : State → State) : Prop := ∀ v, Commutes (setReg k v) f

theorem setReg_getReg (k : BitVec 3) (s : State) : setReg k (getReg s k) s = s := by
  have hr : s.r.set k.toNat (getReg s k) k.isLt = s.r := Vector.set_getElem_self _
  rw [setReg, hr]

theorem setReg_setReg_comm {j k : BitVec 3} (h : j ≠ k) (v w : Byte) (s : State) :
    setReg j v (setReg k w s) = setReg k w (setReg j v s) := by
  have hne : k.toNat ≠ j.toNat := fun e => h (BitVec.eq_of_toNat_eq e.symm)
  simp only [setReg, Vector.set_comm (xs := s.r) (hi := k.isLt) (hj := j.isLt) w v hne]

section
variable {k : BitVec 3} {f : State → State}

/-- A sub-step that does not read or write a register leaves it. -/
theorem Avoids.keeps (hf : Avoids k f) (s : State) : getReg (f s) k = getReg s k := by
  have h := hf (getReg s k) s
  rw [setReg_getReg] at h
  rw [h, getReg_setReg_same]

theorem Avoids.comp {g : State → State} (hg : Avoids k g) (hf : Avoids k f) : Avoids k fun s => g (f s) := fun v s => by
  simp only [hf v s, hg v (f s)]

theorem avoids_storeReg {i : BitVec 3} (p : Ptr) (j : BitVec 2) (hi : i ≠ k) : Avoids k (storeReg p j i) :=
    fun v s => by
  rw [storeReg, getReg_setReg_other s k i v hi]
  rfl

theorem avoids_loadReg {i : BitVec 3} (p : Ptr) (j : BitVec 2) (hi : i ≠ k) : Avoids k (loadReg p j i) := fun v s =>
  setReg_setReg_comm hi _ v s

theorem avoids_incRow {i : BitVec 3} (hi : i ≠ k) : Avoids k (incRow i) := fun v s => by
  rw [incRow, getReg_setReg_other s k i v hi]
  exact setReg_setReg_comm hi _ v s

theorem avoids_moveOn {i : BitVec 3} (inc carry : Bool) (hcol : i ≠ k) (hrow : i - 1 ≠ k) :
    Avoids k (moveOn i inc carry) := fun v =>
  commutes_onlyIf inc fun s => by
    rw [incCol, getReg_setReg_other s k i v hcol, setReg_setReg_comm hcol]
    exact commutes_onlyIf _ (avoids_incRow hrow v) _

theorem avoids_atMp {f : Ptr → State → State} (inc carry : Bool) (h6 : 6 ≠ k) (h7 : 7 ≠ k) (hf : ∀ p, Avoids k (f p)) :
    Avoids k fun s => incMp inc carry (f (mp s) s) := fun v s => by
  have hp : mp (setReg k v s) = mp s := by
    rw [mp, getReg_setReg_other s k 6 v h6, getReg_setReg_other s k 7 v h7]
    rfl
  simp only [hp]
  exact (avoids_moveOn inc carry h7 h6).comp (hf (mp s)) v s

theorem avoids_atAp {f : Ptr → State → State} (inc : Bool) (h4 : 4 ≠ k) (h5 : 5 ≠ k) (hf : ∀ p, Avoids k (f p)) :
    Avoids k fun s => incAp inc (f (ap s) s) := fun v s => by
  have hp : ap (setReg k v s) = ap s := by
    rw [ap, getReg_setReg_other s k 4 v h4, getReg_setReg_other s k 5 v h5]
    rfl
  simp only [hp]
  exact (avoids_moveOn inc false h5 h4).comp (hf (ap s)) v s

end

/-! ### The transfers of a pointer -/

/-- The transfer uses the registers 1 to 3 only: its data. -/
def UsesData (f : State → State) : Prop := ∀ k, k ∉ [1#3, 2#3, 3#3] → Avoids k f

theorem usesData_storeReg {i : BitVec 3} (p : Ptr) (j : BitVec 2) (hi : i ∈ [1#3, 2#3, 3#3]) :
    UsesData (storeReg p j i) := fun _ hk => avoids_storeReg p j fun h => hk (h ▸ hi)

theorem usesData_loadReg {i : BitVec 3} (p : Ptr) (j : BitVec 2) (hi : i ∈ [1#3, 2#3, 3#3]) :
    UsesData (loadReg p j i) := fun _ hk => avoids_loadReg p j fun h => hk (h ▸ hi)

theorem UsesData.comp {f g : State → State} (hg : UsesData g) (hf : UsesData f) : UsesData fun s => g (f s) :=
  fun k hk => (hg k hk).comp (hf k hk)

/-- A command on one pointer, with its column in register `col`, and the registers `row'`, `col'` of the other. -/
structure UsesOnePointer (col row' col' : BitVec 3) (f : State → State) : Prop where
  otherRow : Avoids row' f
  otherCol : Avoids col' f
  /-- 42_vdp_commands R184: an increment keeps the block selector bits -/
  selector : ∀ s, (getReg (f s) col).extractLsb' 6 2 = (getReg s col).extractLsb' 6 2

theorem ColumnMoved.selector {inc : Bool} {v v' : Byte} (h : ColumnMoved inc v v') :
    v'.extractLsb' 6 2 = v.extractLsb' 6 2 := by
  obtain ⟨hbump, hsame⟩ := h
  cases inc with
  | false => rw [hsame rfl]
  | true => exact (hbump rfl).1

section
variable {f : Ptr → State → State} (inc : Bool) (hf : ∀ p, UsesData (f p))
include hf

theorem usesOnePointer_atMp (carry : Bool) : UsesOnePointer 7 4 5 fun s => incMp inc carry (f (mp s) s) where
  otherRow := avoids_atMp inc carry (by decide) (by decide) fun p => hf p 4 (by decide)
  otherCol := avoids_atMp inc carry (by decide) (by decide) fun p => hf p 5 (by decide)
  selector s := by
    rw [← (hf (mp s) 7 (by decide)).keeps s]
    exact (moveOn_column 7 inc carry (f (mp s) s)).selector

theorem usesOnePointer_atAp : UsesOnePointer 5 6 7 fun s => incAp inc (f (ap s) s) where
  otherRow := avoids_atAp inc (by decide) (by decide) fun p => hf p 6 (by decide)
  otherCol := avoids_atAp inc (by decide) (by decide) fun p => hf p 7 (by decide)
  selector s := by
    rw [← (hf (ap s) 5 (by decide)).keeps s]
    exact (moveOn_column 5 inc false (f (ap s) s)).selector

end

theorem usesOnePointer_iny : UsesOnePointer 7 4 5 iny where
  otherRow := avoids_incRow (by decide)
  otherCol := avoids_incRow (by decide)
  selector s := by rw [iny, incRow_getReg, if_neg (by decide)]

/-! ### The operations -/

/-- An operation on one pointer does the same before and after a change of the other pointer's registers. -/
theorem exec_usesOnePointer {i : Instr} {f : State → State} {s : State} {col row' col' : BitVec 3} (v w : Byte)
    (hrun : s.fault = none) (hf : UsesOnePointer col row' col' f) (hexec : ∀ s, exec i s = .next (live f s)) :
    ∃ t, exec i s = .next t ∧ getReg t row' = getReg s row' ∧ getReg t col' = getReg s col' ∧
      (getReg t col).extractLsb' 6 2 = (getReg s col).extractLsb' 6 2 ∧
      exec i (setReg row' v (setReg col' w s)) = .next (setReg row' v (setReg col' w t)) := by
  have hrun' : (setReg row' v (setReg col' w s)).fault = none := hrun
  refine ⟨f s, exec_of_live hrun (hexec s) rfl, hf.otherRow.keeps s, hf.otherCol.keeps s, hf.selector s,
    exec_of_live hrun' (hexec _) ?_⟩
  rw [hf.otherRow v, hf.otherCol w]

/-- Settles O27: a transfer uses the data registers and its own pointer. -/
theorem pointersAreIndependent : Obligations.PointersAreIndependent := by
  have hstore (p : Ptr) : UsesData (storeReg p 0 1) := usesData_storeReg p 0 (by decide)
  have hload (p : Ptr) : UsesData (loadReg p 0 1) := usesData_loadReg p 0 (by decide)
  have hstore2 (p : Ptr) := (usesData_storeReg (i := 2) p 1 (by decide)).comp (hstore p)
  have hload2 (p : Ptr) := (usesData_loadReg (i := 2) p 1 (by decide)).comp (hload p)
  have hstore3 (p : Ptr) := (usesData_storeReg (i := 3) p 2 (by decide)).comp (hstore2 p)
  have hload3 (p : Ptr) := (usesData_loadReg (i := 3) p 2 (by decide)).comp (hload2 p)
  refine ⟨fun i s v w hi hrun => ?_, fun i s v w hi hrun => ?_⟩
  · obtain ⟨inc, p, hi⟩ := hi
    simp only [List.mem_cons, List.not_mem_nil, or_false] at hi
    rcases hi with rfl | rfl | rfl | rfl | rfl | rfl | rfl
    · exact exec_usesOnePointer v w hrun (usesOnePointer_atMp inc hstore3 false) fun _ => rfl
    · exact exec_usesOnePointer v w hrun (usesOnePointer_atMp inc hload3 false) fun _ => rfl
    · exact exec_usesOnePointer v w hrun (usesOnePointer_atMp inc hstore2 false) fun _ => rfl
    · exact exec_usesOnePointer v w hrun (usesOnePointer_atMp inc hload2 false) fun _ => rfl
    · exact exec_usesOnePointer v w hrun (usesOnePointer_atMp inc hstore true) fun _ => rfl
    · exact exec_usesOnePointer v w hrun (usesOnePointer_atMp inc hload true) fun _ => rfl
    · exact exec_usesOnePointer v w hrun usesOnePointer_iny fun _ => rfl
  · obtain ⟨inc, hi⟩ := hi
    simp only [List.mem_cons, List.not_mem_nil, or_false] at hi
    rcases hi with rfl | rfl
    · exact exec_usesOnePointer v w hrun (usesOnePointer_atAp inc hstore) fun _ => rfl
    · exact exec_usesOnePointer v w hrun (usesOnePointer_atAp inc hload) fun _ => rfl

end Sys2Proof.Machine
end

section
/-! PROOFS of the family `43_vdp_raster`, the raster position (43_vdp_raster R222 to R225): the two counters of the
position are the quotient and the remainder of the number of ticks. -/
namespace Sys2Proof.Machine

/-! ### One tick -/

section
variable (s : State)

theorem advance_tickInLine : (advance s).tickInLine =
    if ticksPerLine s.config s.cfg.linesPerFrame ≤ s.tickInLine + 1 then 0 else s.tickInLine + 1 := by
  simp only [advance]; split <;> rfl

theorem advance_line : (advance s).line =
    if ticksPerLine s.config s.cfg.linesPerFrame ≤ s.tickInLine + 1 then
      if s.cfg.linesPerFrame ≤ s.line + 1 then 0 else s.line + 1
    else s.line := by
  simp only [advance]; split <;> rfl

theorem advance_frame : { advance s with tickInLine := s.tickInLine, line := s.line } = s := by
  obtain ⟨k, l, h⟩ := advance_eq s
  rw [h]

end

/-- Settles O28: the two branches of the advance at the end of a line, and of a frame. -/
theorem rasterAdvances : Obligations.RasterAdvances := by
  intro s hf
  refine ⟨advance s, exec_of_live hf rfl rfl, advance_frame s, fun hinside => ?_, fun hend => ?_⟩ <;>
    rw [advance_tickInLine, advance_line]
  · rw [if_neg (by omega), if_neg (by omega)]
    exact ⟨rfl, rfl⟩
  · rw [if_pos hend, if_pos hend]
    exact ⟨rfl, fun hlast => if_pos hlast, fun hmore => if_neg (by omega)⟩

theorem vsLevel_low (line : Nat) : vsLevel line = false ↔ line = 0 ∨ line = 1 := by
  simp [vsLevel, or_iff_not_imp_left]

theorem hsLevel_low (c : Config) (tick : Nat) : hsLevel c tick = false ↔ tick < c.hsTicks := by simp [hsLevel]

/-- Settles O29. -/
theorem syncLevelsFollowPosition : Obligations.SyncLevelsFollowPosition := fun s hf =>
  ⟨syncOut s, exec_of_live hf rfl rfl, rfl, vsLevel_low s.line, hsLevel_low s.config s.tickInLine⟩

/-! ### Any number of ticks -/

/-- A counter that starts over at `p` counts modulo `p`. -/
theorem succ_mod_eq_ite {p : Nat} (hp : 0 < p) (n : Nat) : (n + 1) % p = if p ≤ n % p + 1 then 0 else n % p + 1 := by
  have hlt := Nat.mod_lt n hp
  rw [← Nat.mod_add_mod]
  split
  · next hend => rw [show n % p + 1 = p by omega, Nat.mod_self]
  · next hinside => exact Nat.mod_eq_of_lt (by omega)

/-- The quotient goes up where the remainder starts over. -/
theorem succ_div_eq_ite {p : Nat} (hp : 0 < p) (n : Nat) :
    (n + 1) / p = if p ≤ n % p + 1 then n / p + 1 else n / p := by
  have hlt := Nat.mod_lt n hp
  have hdiv := Nat.mod_add_div n p
  have hsplit : n + 1 = n % p + 1 + p * (n / p) := by omega
  rw [hsplit, Nat.add_mul_div_left _ _ hp]
  split
  · next hend => rw [show n % p + 1 = p by omega, Nat.div_self hp, Nat.add_comm]
  · next hinside => rw [Nat.div_eq_of_lt (by omega), Nat.zero_add]

/-- A raster step whose act raises no fault runs to its end (43_vdp_raster R220). -/
theorem rasterStep_of_act_running {s : State} (hf : s.fault = none) (hact : (rasterAct s).fault = none) :
    rasterStep s = advance (syncOut (rasterAct s)) := by
  rw [rasterStep, liveSeq_running hf, liveSeq_running hact, liveSeq_running (s := syncOut (rasterAct s)) hact,
    liveSeq_nil]

/-- A tick in an accepted mode moves the position on, whatever else it does there. -/
theorem rasterStep_position {s : State} (hf : s.fault = none) (hm : ModeAccepted s) :
    (rasterStep s).line = (advance s).line ∧ (rasterStep s).tickInLine = (advance s).tickInLine := by
  obtain ⟨b, y, q, m, hact⟩ := rasterAct_eq hf hm
  have hrunning : (rasterAct s).fault = none := by rw [hact]; exact hf
  rw [rasterStep_of_act_running hf hrunning, hact]
  simp only [advance_line, advance_tickInLine]
  exact ⟨rfl, rfl⟩

/-- The state is `n` ticks past the position (0, 0) of `s`, with the line and frame lengths of `s`. -/
structure TicksPast (s : State) (n : Nat) (t : State) : Prop where
  running : t.fault = none
  config : t.config = s.config
  cfg : t.cfg = s.cfg
  line : t.line = n / ticksPerLine s.config s.cfg.linesPerFrame % s.cfg.linesPerFrame
  tick : t.tickInLine = n % ticksPerLine s.config s.cfg.linesPerFrame

/-- One more tick. -/
theorem TicksPast.succ {s t : State} {n : Nat} (hm : ModeAccepted s)
    (hline : 0 < ticksPerLine s.config s.cfg.linesPerFrame) (hframe : 0 < s.cfg.linesPerFrame) (h : TicksPast s n t) :
    TicksPast s (n + 1) (live rasterStep t) := by
  have hmt : ModeAccepted t := by rw [ModeAccepted, h.cfg]; exact hm
  have hkept := rasterStep_restore t
  obtain ⟨hl, ht⟩ := rasterStep_position h.running hmt
  rw [live_of_running t _ h.running]
  exact
    { running := rasterStep_running t h.running hmt
      config := (congrArg State.config hkept).trans h.config
      cfg := (congrArg State.cfg hkept).trans h.cfg
      line := by
        rw [hl, advance_line, h.config, h.cfg, h.tick, h.line, succ_div_eq_ite hline]
        split
        · exact (succ_mod_eq_ite hframe _).symm
        · rfl
      tick := by rw [ht, advance_tickInLine, h.config, h.cfg, h.tick, succ_mod_eq_ite hline] }

/-- Settles O30, by induction on the number of ticks. -/
theorem rasterPositionAfterTicks : Obligations.RasterPositionAfterTicks := by
  intro s n hf hm hl ht perLine hline hframe
  have hpast : TicksPast s n ((live rasterStep)^[n] s) := by
    induction n with
    | zero =>
      exact { running := hf, config := rfl, cfg := rfl
              line := by rw [Nat.zero_div, Nat.zero_mod]; exact hl
              tick := by rw [Nat.zero_mod]; exact ht }
    | succ n ih =>
      rw [Function.iterate_succ_apply']
      exact ih.succ hm hline hframe
  exact ⟨hpast.running, hpast.line, hpast.tick⟩

end Sys2Proof.Machine
end

section
/-! PROOFS of the family `43_vdp_raster`, the row reload (43_vdp_raster R227 to R231): a cell is decoded under the latch
that its left neighbour shows. -/
namespace Sys2Proof.Machine

/-! ### Character modes -/

/-- A reload of a text row is one sub-step of a running block. -/
theorem exec_raRowReload {s t : State} {k : Nat} (hf : s.fault = none) (h1 : 1 ≤ k) (h24 : k ≤ 24)
    (ht : t = rowReload k s) : exec (.raRowReload k) s = .next t := by
  have hrow : textRow k = true := by simp [textRow, h1, h24]
  exact exec_of_live hf (if_pos hrow) ht

theorem charModeFault_notImplemented (m : BitVec 3) (h : m = 1 ∨ m = 2 ∨ m = 3) :
    charModeFault m = some (.notImplementedCharMode m) := by
  rcases h with rfl | rfl | rfl <;> rfl

theorem charModeFault_unknown (m : BitVec 3) (h : m = 5 ∨ m = 6 ∨ m = 7) :
    charModeFault m = some (.unknownCharMode m) := by
  rcases h with rfl | rfl | rfl <;> rfl

/-- In a mode with a fault the reload raises it and loads nothing. -/
theorem rowReload_rejected {s : State} {e : Fault} (hf : s.fault = none) (k : Nat)
    (he : charModeFault s.cfg.charMode = some e) : rowReload k s = { s with fault := some e } := by
  simp only [rowReload, he]
  exact raise_of_running s e hf

/-- Settles O32. -/
theorem rowReloadRejectsOtherModes : Obligations.RowReloadRejectsOtherModes := by
  intro s k hf h1 h24
  refine ⟨fun h => ⟨rowReload k s, exec_raRowReload hf h1 h24 rfl, ?_⟩, fun h => ?_, fun h => ?_⟩
  · rw [rowReload_fault hf, charModeFault_none]
    exact h
  · exact exec_raRowReload hf h1 h24 (rowReload_rejected hf k (charModeFault_notImplemented _ h)).symm
  · exact exec_raRowReload hf h1 h24 (rowReload_rejected hf k (charModeFault_unknown _ h)).symm

/-! ### One cell -/

section
variable {l : CellLayout} {a b c : Byte} (latch : DelimLatch)

theorem cellKind_delim : cellKind l b = .delim ↔ read3 l.kind b = l.delimPattern := by
  simp only [cellKind]
  split
  · next h => exact iff_of_true rfl h
  · next h => split <;> exact iff_of_false (by simp) h

/-- A delimiter sets the latch from its own word and shows it (43_vdp_raster R230, R231). -/
theorem decodeCell_delim (h : read3 l.kind b = l.delimPattern) :
    decodeCell l a b c latch =
      { a := a, b := b, c := c, kind := .delim, fg := read3 l.fg (tripletWord a b c)
        bg := read3 l.bg (tripletWord a b c), underline := (tripletWord a b c).getLsbD l.underline
        conceal := (tripletWord a b c).getLsbD l.conceal, insert := (tripletWord a b c).getLsbD l.insert
        dw := false, dh := false } := by
  simp [decodeCell, latchAfter, cellKind_delim.2 h]

/-- Any other cell shows the latch it finds. -/
theorem decodeCell_character (h : read3 l.kind b ≠ l.delimPattern) :
    decodeCell l a b c latch =
      { a := a, b := b, c := c, kind := if b.getLsbD l.graphic then .graphic else .alpha
        fg := read3 l.fg (tripletWord a b c), bg := latch.bg, underline := latch.underline, conceal := latch.conceal
        insert := latch.insert, dw := (tripletWord a b c).getLsbD l.dw, dh := (tripletWord a b c).getLsbD l.dh } := by
  have hkind : cellKind l b = if b.getLsbD l.graphic then .graphic else .alpha := if_neg h
  have hnot : cellKind l b ≠ .delim := fun hd => h (cellKind_delim.1 hd)
  rw [← hkind]
  simp [decodeCell, latchAfter, hnot]

/-- The latch a cell shows. -/
def shownLatch (cell : RowCell) : DelimLatch :=
  { bg := cell.bg, underline := cell.underline, conceal := cell.conceal, insert := cell.insert }

theorem shownLatch_decodeCell : shownLatch (decodeCell l a b c latch) = latchAfter l a b c latch := rfl

end

/-! ### The reference layout -/

theorem ofBool_bits : ∀ v : BitVec 3,
    BitVec.ofBool (v.getLsbD 2) ++ BitVec.ofBool (v.getLsbD 1) ++ BitVec.ofBool (v.getLsbD 0) = v := by decide

/-- Three adjacent places, highest first, are a field of the word. -/
theorem read3_adjacent {n : Nat} (f : Bits3 n) (w : BitVec n) (hmid : f.mid.val = f.lo.val + 1)
    (hhi : f.hi.val = f.lo.val + 2) : read3 f w = w.extractLsb' f.lo 3 := by
  rw [← ofBool_bits (w.extractLsb' f.lo 3), read3, hmid, hhi]
  simp

section
variable (a b c : Byte)

/-- The bits of a triplet: `C` from 0, `B` from 8, `A` from 16 (30_encoding R118). -/
theorem tripletWord_getLsbD (i : Nat) : (tripletWord a b c).getLsbD i =
    if i < 8 then c.getLsbD i else if i < 16 then b.getLsbD (i - 8) else a.getLsbD (i - 16) := by
  have houter : (tripletWord a b c).getLsbD i = if i < 8 then c.getLsbD i else (a ++ b).getLsbD (i - 8) :=
    BitVec.getLsbD_append
  have hinner : (a ++ b).getLsbD (i - 8) = if i - 8 < 8 then b.getLsbD (i - 8) else a.getLsbD (i - 8 - 8) :=
    BitVec.getLsbD_append
  rw [houter, hinner, Nat.sub_sub]
  by_cases hc : i < 8
  · rw [if_pos hc, if_pos hc]
  · rw [if_neg hc, if_neg hc]
    exact if_congr (by omega) rfl rfl

theorem tripletWord_getLsbD_b {k : Nat} (h : k < 8) : (tripletWord a b c).getLsbD (8 + k) = b.getLsbD k := by
  rw [tripletWord_getLsbD, if_neg (by omega), if_pos (by omega), Nat.add_sub_cancel_left]

theorem tripletWord_extract_a (k : Nat) : (tripletWord a b c).extractLsb' (16 + k) 3 = a.extractLsb' k 3 := by
  apply BitVec.eq_of_getLsbD_eq
  intro i hi
  rw [BitVec.getLsbD_extractLsb', BitVec.getLsbD_extractLsb', tripletWord_getLsbD, if_neg (by omega), if_neg (by omega),
    Nat.add_assoc, Nat.add_sub_cancel_left]

/-- The fields of a cell under the reference layout (30_encoding R119, 43_vdp_raster R230). -/
theorem decodeCell_reference (latch : DelimLatch) :
    let cell := decodeCell cellLayoutRef a b c latch
    cell.fg = a.extractLsb' 4 3 ∧ (cell.kind = .delim ↔ b.extractLsb' 5 3 = 0b100) ∧
    (cell.kind = .delim →
      cell.bg = a.extractLsb' 0 3 ∧ cell.underline = b.getLsbD 2 ∧ cell.insert = b.getLsbD 1 ∧
      cell.conceal = b.getLsbD 0) ∧
    (cell.kind ≠ .delim →
      (cell.kind = .graphic ↔ b.getLsbD 7 = true) ∧ cell.dw = b.getLsbD 3 ∧ cell.dh = b.getLsbD 1) := by
  have hkind : read3 cellLayoutRef.kind b = b.extractLsb' 5 3 := read3_adjacent _ _ rfl rfl
  have hfg : read3 cellLayoutRef.fg (tripletWord a b c) = a.extractLsb' 4 3 :=
    (read3_adjacent _ _ rfl rfl).trans (tripletWord_extract_a a b c 4)
  have hbg : read3 cellLayoutRef.bg (tripletWord a b c) = a.extractLsb' 0 3 :=
    (read3_adjacent _ _ rfl rfl).trans (tripletWord_extract_a a b c 0)
  by_cases hdelim : read3 cellLayoutRef.kind b = cellLayoutRef.delimPattern
  · have hcell := decodeCell_delim (a := a) (c := c) latch hdelim
    rw [hcell]
    refine ⟨hfg, iff_of_true rfl (hkind ▸ hdelim), fun _ => ⟨hbg, ?_, ?_, ?_⟩, fun h => absurd rfl h⟩
    · exact tripletWord_getLsbD_b a b c (k := 2) (by omega)
    · exact tripletWord_getLsbD_b a b c (k := 1) (by omega)
    · exact tripletWord_getLsbD_b a b c (k := 0) (by omega)
  · have hcell := decodeCell_character (a := a) (c := c) latch hdelim
    have hnot : (decodeCell cellLayoutRef a b c latch).kind ≠ .delim := fun h => hdelim (cellKind_delim.1 h)
    refine ⟨hfg, iff_of_false hnot (hkind ▸ hdelim), fun h => absurd h hnot, fun _ => ?_⟩
    rw [hcell]
    have hgraphic : ∀ p : Bool, (if p then CellKind.graphic else .alpha) = .graphic ↔ p = true := by decide
    exact ⟨hgraphic (b.getLsbD 7), tripletWord_getLsbD_b a b c (k := 3) (by omega),
      tripletWord_getLsbD_b a b c (k := 1) (by omega)⟩

end

/-! ### The row -/

section
variable {s : State}

theorem rowTriplets_getElem? (y : BitVec 5) {c : Nat} (hc : c < 40) :
    (rowTriplets s y)[c]? = some (tripletAt s y c) := by simp [rowTriplets, hc]

/-- A cell of a loaded row is its triplet under the latch its left neighbour shows, which is clear in column 0
(43_vdp_raster R228). -/
theorem cellAt_loadRow (k : Nat) {c : Nat} (hc : c < 40) :
    let y := displayRow s.cfg.originRow k
    cellAt (loadRow k s) c =
      decodeCell s.config.layout (tripletAt s y c).1 (tripletAt s y c).2.1 (tripletAt s y c).2.2
        (if c = 0 then clearLatch else shownLatch (cellAt (loadRow k s) (c - 1))) := by
  intro y
  have hcell {i : Nat} (hi : i < 40) : cellAt (loadRow k s) i =
      decodeCell s.config.layout (tripletAt s y i).1 (tripletAt s y i).2.1 (tripletAt s y i).2.2
        (latchBefore s.config.layout clearLatch (rowTriplets s y) i) :=
    congrArg (·.getD blankCell) (reloadedRow_cell s y i hi)
  rw [hcell hc]
  congr 1
  cases c with
  | zero => rfl
  | succ c =>
    rw [if_neg (by omega), Nat.add_sub_cancel, hcell (by omega), shownLatch_decodeCell]
    exact latchBefore_succ _ _ _ _ _ _ _ (rowTriplets_getElem? y (by omega))

end

/-- Settles O31: a cell of the loaded row by its decoding, as a delimiter or as another cell. -/
theorem rowReloadLoadsAndLatches : Obligations.RowReloadLoadsAndLatches := by
  intro s k hf hm h1 h24 l y
  refine ⟨loadRow k s, exec_raRowReload hf h1 h24 (rowReload_accepted s k hm).symm, rfl, displayRow_toNat _ k h1 h24,
    fun c hc => ?_⟩
  intro cell left plane word
  let latch := if c = 0 then clearLatch else shownLatch left
  have hcell : cell = decodeCell l (plane 2) (plane 1) (plane 0) latch := cellAt_loadRow k hc
  have hword : word = tripletWord cell.a cell.b cell.c := rfl
  clear_value cell word
  subst hcell hword
  refine ⟨rfl, rfl, rfl, rfl, fun href => ?_, fun hdelim => ?_, fun hother => ?_⟩
  · rw [href]
    exact decodeCell_reference (plane 2) (plane 1) (plane 0) latch
  · rw [decodeCell_delim (b := plane 1) latch hdelim]
    exact ⟨rfl, rfl, rfl, rfl, rfl, rfl, rfl⟩
  · rw [decodeCell_character (b := plane 1) latch hother]
    refine ⟨rfl, rfl, rfl, fun hfirst => ?_, fun hlater => ?_⟩
    · rw [show latch = clearLatch from if_pos hfirst]
      exact ⟨rfl, rfl, rfl, rfl⟩
    · rw [show latch = shownLatch left from if_neg (by omega)]
      exact ⟨rfl, rfl, rfl, rfl⟩

end Sys2Proof.Machine
end

section
/-! PROOFS of the family `43_vdp_raster`, the quadrant pass and the cell render (43_vdp_raster R232 to R240). -/
namespace Sys2Proof.Machine

/-! ### The quadrant pass -/

/-- A quadrant of the pass is the table's value at its cell, the new quadrant to its left and the old one of its slot
(43_vdp_raster R233). -/
theorem quadAt_quadrantPass (s : State) {i : Nat} (hi : i < 40) :
    quadAt (quadrantPass s) i =
      quadNext (cellAt s i).dw (cellAt s i).dh (if i = 0 then .none else quadAt (quadrantPass s) (i - 1))
        (quadAt s i) := by
  have hslot : (s.rowbuf.toList.zip s.quad.toList)[i]? = some (cellAt s i, quadAt s i) := by
    simp [cellAt, quadAt, hi]
  have hquad (j : Nat) : quadAt (quadrantPass s) j =
      (quadRow .none (s.rowbuf.toList.zip s.quad.toList))[j]?.getD .none :=
    quadAt_row40 (quadrantPass s) _ (by simp [quadRow_length]) rfl j
  rw [hquad, hquad, quadRow_getElem? _ _ _ _ _ hslot]
  rfl

/-- Settles O33: the lines of the table. -/
theorem quadrantPassFollowsTheTable : Obligations.QuadrantPassFollowsTheTable := by
  refine fun s hf => ⟨exec_of_live hf rfl rfl, quadrantPass s, exec_of_live hf rfl rfl, rfl, fun i hi => ?_⟩
  intro dw dh left above q
  have hq : q = quadNext dw dh left above := quadAt_quadrantPass s hi
  clear_value q dw dh left above
  subst hq
  refine ⟨?_, ?_, ?_, ?_, ?_, ?_⟩
  · rintro rfl rfl rfl; rfl
  · rintro rfl rfl rfl; rfl
  · rintro rfl rfl hTL hBL
    have hnew : quadNext true true left above =
        if above = .dsTL then .dsBL else if above = .dsTR then .none else .dsTL :=
      (if_neg hTL).trans (if_neg hBL)
    rw [hnew]
    exact ⟨fun h => if_pos h, fun h => by rw [h]; rfl, fun h1 h2 => by rw [if_neg h1, if_neg h2]⟩
  · rintro rfl rfl
    exact ⟨fun h => if_pos h, fun h => if_neg h⟩
  · rintro rfl rfl
    exact ⟨fun h => if_pos h, fun h => if_neg h⟩
  · rintro rfl rfl; rfl

/-! ### The cell render -/

theorem sliceIndex_eq (q : Quadrant) (sl : Nat) : sliceIndex q sl =
    if q = .none ∨ q = .dwL ∨ q = .dwR then sl
    else if q = .dhT ∨ q = .dsTL ∨ q = .dsTR then sl / 2 else 5 + sl / 2 := by
  cases q <;> simp [sliceIndex]

theorem pixelIndex_eq (q : Quadrant) (p : Nat) : pixelIndex q p =
    if q = .none ∨ q = .dhT ∨ q = .dhB then p
    else if q = .dwL ∨ q = .dsTL ∨ q = .dsBL then p / 2 else 4 + p / 2 := by
  cases q <;> simp [pixelIndex]

/-- The cursor stands where the pointer's column and row are, as numbers (43_vdp_raster R239). -/
theorem cursorHere_eq (s : State) (c : Nat) : cursorHere s c =
    ((getIReg s 2).getLsbD 6 && decide ((getReg s 7).toNat % 64 = c) &&
      decide ((getReg s 6).toNat % 32 = s.rowY.toNat)) := by
  have hcol : (c == ((getReg s 7).extractLsb' 0 6).toNat) = decide ((getReg s 7).toNat % 64 = c) := by
    rw [BitVec.extractLsb'_toNat, Nat.shiftRight_zero, beq_eq_decide]
    exact decide_eq_decide.2 eq_comm
  have hrow : (s.rowY == (getReg s 6).extractLsb' 0 5) = decide ((getReg s 6).toNat % 32 = s.rowY.toNat) := by
    rw [beq_eq_decide, decide_eq_decide, ← BitVec.toNat_inj, BitVec.extractLsb'_toNat, Nat.shiftRight_zero]
    exact eq_comm
  rw [cursorHere, hcol, hrow]

theorem fbRead_renderCell_inside {s : State} (hform : s.fb.wf = true) (c sl al : Nat) {p : Nat} (hp : p < 8) :
    (fbRead (renderCell c sl al s) (al * 320 + c * 8 + p)).toNat = (pixelColour s c sl p).toNat := by
  rw [renderCell_read s c sl al _ hform, fbWidth, if_pos (by omega), Nat.add_sub_cancel_left]
  exact BitVec.toNat_setWidth_of_le (by decide)

theorem fbRead_renderCell_outside {s : State} (hform : s.fb.wf = true) (c sl al : Nat) {i : Nat}
    (hi : i < al * 320 + c * 8 ∨ al * 320 + c * 8 + 8 ≤ i) : fbRead (renderCell c sl al s) i = fbRead s i := by
  rw [renderCell_read s c sl al _ hform, fbWidth, if_neg (by omega)]

/-- Settles O34: the eight bytes of the cell hold the pixel colours of its glyph slice. -/
theorem cellRenderWritesEightBytes : Obligations.CellRenderWritesEightBytes := by
  intro s c sl al hf hform hc hsl h10 h250 cell q slice g cursor shown pixel
  have hwindow : cellInWindow c sl al = true := by simp [cellInWindow, hc, hsl, h10, h250]
  have hslice : sliceIndex (quadAt s c) sl = slice := sliceIndex_eq q sl
  have hglyph : glyph s.config (cellAt s c) (sliceIndex (quadAt s c) sl) = g := by rw [hslice]; rfl
  have hcursor : cursorHere s c = cursor := cursorHere_eq s c
  have hinverse : g ^^^ 0xFF#8 = ~~~ g := BitVec.xor_allOnes
  have hshown : shownGlyph s c sl = shown := by
    simp only [shownGlyph, hglyph, hcursor]
    exact congrArg (if cursor then · else g) hinverse
  have hpixel (p : Nat) : pixel p = glyphPixel s.config (shownGlyph s c sl) (pixelIndex q p) := by
    rw [pixelIndex_eq, hshown]; rfl
  refine ⟨renderCell c sl al s, exec_of_live hf (if_pos hwindow) rfl, renderCell_frame s c sl al, fun p hp => ?_,
    fun i hi => fbRead_renderCell_outside hform c sl al hi⟩
  rw [fbRead_renderCell_inside hform c sl al hp, hpixel, pixelColour]

end Sys2Proof.Machine
end

section
/-! PROOFS of the family `43_vdp_raster`, the parts of a raster tick (43_vdp_raster R220, R221, R226, R232): what the
position selects, and the tick that a faulting reload ends. -/
namespace Sys2Proof.Machine

variable {s : State}

/-! ### What the position selects -/

theorem activeLine_of_line {al : Nat} (hal : al < 250) (hline : s.line = s.config.vActiveStart + al) :
    activeLine s = some al := by
  rw [activeLine, hline, Nat.add_sub_cancel_left, if_pos ⟨Nat.le_add_right _ _, hal⟩]

theorem activeLine_outside (h : s.line < s.config.vActiveStart ∨ s.config.vActiveStart + 250 ≤ s.line) :
    activeLine s = none := if_neg (by omega)

theorem startingCell_at {c : Config} {col tick : Nat} (hcol : col < 40) (hpos : 0 < c.ticksPerCell)
    (htick : tick = c.hActiveStart + col * c.ticksPerCell) : startingCell c tick = some col := by
  rw [startingCell, htick, Nat.add_sub_cancel_left, Nat.mul_mod_left, Nat.mul_div_cancel _ hpos,
    if_pos ⟨Nat.le_add_right _ _, rfl, hcol⟩]

theorem startingCell_none {c : Config} {tick : Nat} (h : ∀ col < 40, tick ≠ c.hActiveStart + col * c.ticksPerCell) :
    startingCell c tick = none := by
  cases hcell : startingCell c tick with
  | none => rfl
  | some col =>
    obtain ⟨hcol, htick⟩ := startingCell_some hcell
    exact absurd htick (h col hcol)

/-! ### The act of a position -/

theorem rasterAct_outside (h : s.line < s.config.vActiveStart ∨ s.config.vActiveStart + 250 ≤ s.line) :
    rasterAct s = s := by
  simp only [rasterAct, activeLine_outside h]

section
variable {al : Nat} (hal : al < 250) (hline : s.line = s.config.vActiveStart + al)
include hal hline

/-- In the service row the quadrants are cleared at the first tick of the first line (43_vdp_raster R232). -/
theorem rasterAct_serviceRow (hservice : al < 10) :
    rasterAct s = if al = 0 ∧ s.tickInLine = 0 then serviceRow s else s := by
  have hrow : al / 10 = 0 := by omega
  simp only [rasterAct, activeLine_of_line hal hline, hrow, if_true, onlyIf, Nat.mod_eq_of_lt hservice,
    Bool.and_eq_true, beq_iff_eq]

theorem rasterAct_textRow (htext : 10 ≤ al) :
    rasterAct s = liveSeq [reloadStep (al / 10) (al % 10), cellStep (al % 10) al] s := by
  have hrow : al / 10 ≠ 0 := by omega
  simp only [rasterAct, activeLine_of_line hal hline, hrow, if_false]

end

/-! ### The reload of a text row -/

theorem reloadStep_notDue {k sl : Nat} (h : ¬ (sl = 0 ∧ s.tickInLine = 0)) : reloadStep k sl s = s := by
  simp only [reloadStep, onlyIf, Bool.and_eq_true, beq_iff_eq, if_neg h]

theorem reloadStep_due {sl : Nat} (hf : s.fault = none) (h : sl = 0 ∧ s.tickInLine = 0) (k : Nat) :
    reloadStep k sl s = live quadrantPass (rowReload k s) := by
  simp only [reloadStep, onlyIf, Bool.and_eq_true, beq_iff_eq, if_pos h, liveSeq_running hf, liveSeq_cons, liveSeq_nil]

/-- The state a text line's cell is rendered from: after the reload and the quadrant pass of its row if they are due at
this tick, and the state found if they are not (43_vdp_raster R226, R233). -/
def AfterReload (k sl : Nat) (s u : State) : Prop :=
  (sl = 0 ∧ s.tickInLine = 0) ∧ ModeAccepted s ∧ u = quadrantPass (loadRow k s) ∨ ¬ (sl = 0 ∧ s.tickInLine = 0) ∧ u = s

section
variable {k sl : Nat} {u : State} (hu : AfterReload k sl s u)
include hu

theorem AfterReload.startingCell_eq : startingCell u.config u.tickInLine = startingCell s.config s.tickInLine := by
  rcases hu with ⟨-, -, rfl⟩ | ⟨-, rfl⟩ <;> rfl

variable (hf : s.fault = none)
include hf

theorem AfterReload.running : u.fault = none := by
  rcases hu with ⟨-, -, rfl⟩ | ⟨-, rfl⟩ <;> exact hf

theorem AfterReload.reloadStep_eq : reloadStep k sl s = u := by
  rcases hu with ⟨hdue, hm, rfl⟩ | ⟨hnot, rfl⟩
  · rw [reloadStep_due hf hdue, rowReload_accepted s k hm, live_of_running (loadRow k s) _ hf]
  · exact reloadStep_notDue hnot

end

/-! ### The tick -/

/-- A raster tick of a running block whose act leaves a running state ends with sync and advance. -/
theorem exec_raTick_of_act {t : State} (hf : s.fault = none) (hact : rasterAct s = t) (ht : t.fault = none) :
    exec .raTick s = .next (advance (syncOut t)) :=
  exec_of_live hf rfl (hact ▸ (rasterStep_of_act_running hf (hact ▸ ht)).symm)

/-- An act that raises a fault ends the tick (00_scope R9). -/
theorem exec_raTick_of_act_faulting {t : State} {e : Fault} (hf : s.fault = none) (hact : rasterAct s = t)
    (ht : t.fault = some e) : exec .raTick s = .next t := by
  refine exec_of_live hf rfl ?_
  rw [rasterStep, liveSeq_running hf, hact, liveSeq_halted t _ e ht]

/-- Settles O35: the act of each kind of line, then sync and advance. -/
theorem rasterTickRunsSelectedParts : Obligations.RasterTickRunsSelectedParts := by
  intro s hf finish
  refine ⟨fun hout => exec_raTick_of_act hf (rasterAct_outside hout) hf, fun al hal hline =>
    ⟨fun hservice => ?_, fun htext u hu => ?_, fun htext hfirst htick hm => ?_⟩⟩
  · refine exec_raTick_of_act hf (rasterAct_serviceRow hal hline hservice) ?_
    split <;> exact hf
  · have hu : AfterReload (al / 10) (al % 10) s u := hu
    have hact : rasterAct s = cellStep (al % 10) al u := by
      rw [rasterAct_textRow hal hline htext, liveSeq_running hf, hu.reloadStep_eq hf, liveSeq_running (hu.running hf),
        liveSeq_nil]
    refine ⟨fun c hc hpos hstart => ?_, fun hno => ?_⟩
    · have hcell : cellStep (al % 10) al u = renderCell c (al % 10) al u := by
        simp only [cellStep, hu.startingCell_eq, startingCell_at hc hpos hstart]
      exact exec_raTick_of_act hf (hact.trans hcell) ((renderCell_fault u c _ al).trans (hu.running hf))
    · have hcell : cellStep (al % 10) al u = u := by
        simp only [cellStep, hu.startingCell_eq, startingCell_none hno]
      exact exec_raTick_of_act hf (hact.trans hcell) (hu.running hf)
  · obtain ⟨f, hmode⟩ := Option.ne_none_iff_exists'.1 fun h => hm ((charModeFault_none s.cfg.charMode).1 h)
    have hreload : reloadStep (al / 10) (al % 10) s = { s with fault := some f } := by
      rw [reloadStep_due hf ⟨hfirst, htick⟩, rowReload_rejected hf _ hmode]
      exact live_of_halted _ _ f rfl
    refine ⟨f, hmode, exec_raTick_of_act_faulting hf ?_ rfl⟩
    rw [rasterAct_textRow hal hline htext, liveSeq_running hf, hreload, liveSeq_halted _ _ f rfl]

end Sys2Proof.Machine
end

section
/-! PROOFS of the family `44_tape_codec`, the terminal state (44_tape_codec R291). Only the codec and the host's calls
touch the tape; a codec in `FINISHED` selects no pulse operation and pushes no sample. -/
namespace Sys2Proof.Machine

/-! ### What leaves the tape alone -/

theorem leaves_tape_of_invPart {f : State → State} (hf : Leaves invPart f) : Leaves State.tape f := fun s =>
  congrArg (fun x => x.2.2.2.2.2.2) (hf s)

section
variable {i : Instr} {s t : State}

/-- A store, or the edge that runs a command, leaves the tape (42_vdp_commands R203). -/
theorem exec_storesVram_tape (h : exec i s = .next t) (hi : storesVram i) : t.tape = s.tape := by
  rcases hi with ⟨inc, rfl | rfl | rfl | rfl⟩ | rfl
  · exact leaves_of_next_live h (leaves_of_frame (fun s => incMp_frame s _ inc false rfl) fun _ _ => rfl)
  · exact leaves_of_next_live h (leaves_of_frame (fun s => incMp_frame s _ inc false rfl) fun _ _ => rfl)
  · exact leaves_of_next_live h (leaves_of_frame (fun s => incMp_frame s _ inc true rfl) fun _ _ => rfl)
  · exact leaves_of_next_live h (leaves_of_frame (fun s => incAp_frame s _ inc rfl) fun _ _ => rfl)
  · have hd (c : Byte) : Leaves State.tape (dispatch c) := leaves_of_frame (fun s => dispatch_frame s c) fun _ _ => rfl
    exact leaves_of_next_live h fun s => leaves_onlyIf _ (hd _) s

theorem tape_advance : Leaves State.tape advance := leaves_of_frame advance_restore fun _ _ => rfl

/-- Outside the ticks of the whole block the tape is the codec's and the host's. -/
theorem exec_tape (h : exec i s = .next t) (htick : ¬ ticksBlock i) (hcodec : ¬ runsCodec i)
    (hreset : ¬ resetsCodec i) : t.tape = s.tape := by
  by_cases hi : movesInvPart i
  · rcases hi with hi | hi | hi | hi | ⟨r, rfl⟩ | rfl
    · exact absurd hi htick
    · exact exec_storesVram_tape h hi
    · rcases hi with rfl | ⟨c, sl, al, rfl⟩ | rfl | rfl
      · exact leaves_of_next_live h (leaves_of_frame rasterStep_restore fun _ _ => rfl)
      · obtain ⟨-, rfl⟩ := guarded_next h
        exact leaves_live (leaves_of_frame (fun s => renderCell_restore s c sl al) fun _ _ => rfl) s
      all_goals simp [resetsCodec] at hreset
    · exact absurd hi hcodec
    · exact leaves_of_next_live (p := State.tape) h fun _ => rfl
    · exact leaves_of_next_live h tape_advance
  · exact congrArg (fun x => x.2.2.2.2.2.2) (exec_invPart h hi)

end

theorem tape_vdpTicks (n : Nat) : Leaves State.tape (vdpTicks n) := by
  have hbus : Leaves State.tape busStep := leaves_of_frame busStep_restore fun _ _ => rfl
  have hraster : Leaves State.tape rasterStep := leaves_of_frame rasterStep_restore fun _ _ => rfl
  have hpins : Leaves State.tape returnPins := fun _ => rfl
  have htick : Leaves State.tape vdpTick := fun s =>
    (leaves_live hpins _).trans ((leaves_live hraster _).trans (leaves_live hbus s))
  induction n with
  | zero => exact fun _ => rfl
  | succ n ih => exact fun s => (ih _).trans (leaves_live htick s)

/-! ### Staying in `FINISHED` -/

/-- What the statement about `FINISHED` speaks of: the codec's state, its decoded bytes and its ring. -/
def codecPart (s : State) : TapeState × List Byte × List Nat := (s.tape.state, s.tape.decoded, s.tape.ring)

/-- A codec in `FINISHED` is there in `t` too, with the same bytes and ring. -/
def StaysFinished (s t : State) : Prop := s.tape.state = .finished → codecPart t = codecPart s

/-- The sub-step keeps a codec in `FINISHED`. -/
def KeepsFinished (f : State → State) : Prop := ∀ s, StaysFinished s (f s)

section
variable {s t u : State} {f : State → State}

theorem staysFinished_refl (s : State) : StaysFinished s s := fun _ => rfl

theorem StaysFinished.trans (h1 : StaysFinished s t) (h2 : StaysFinished t u) : StaysFinished s u := fun hs =>
  (h2 ((congrArg Prod.fst (h1 hs)).trans hs)).trans (h1 hs)

theorem staysFinished_of_tape (h : t.tape = s.tape) : StaysFinished s t := fun _ => by rw [codecPart, h, codecPart]

theorem keepsFinished_of_leaves (hf : Leaves State.tape f) : KeepsFinished f := fun s => staysFinished_of_tape (hf s)

theorem keepsFinished_live (hf : KeepsFinished f) : KeepsFinished (live f) := fun s => by
  rcases live_cases s f with ⟨-, he⟩ | ⟨-, he⟩ <;> rw [he]
  · exact hf s
  · exact staysFinished_refl s

theorem keepsFinished_nil : KeepsFinished (liveSeq []) := staysFinished_refl

theorem keepsFinished_cons {fs : List (State → State)} (hf : KeepsFinished f) (hfs : KeepsFinished (liveSeq fs)) :
    KeepsFinished (liveSeq (f :: fs)) := fun s => (keepsFinished_live hf s).trans (hfs _)

theorem keepsFinished_repeatTick (hf : KeepsFinished f) (n : Nat) : KeepsFinished (repeatTick f n) := by
  induction n with
  | zero => exact staysFinished_refl
  | succ n ih => exact fun s => (hf s).trans (ih _)

end

/-! ### The codec -/

/-- In `FINISHED` a toggle neither pushes its sample nor does anything with the ring (44_tape_codec R281). -/
theorem toggle_finished {s : State} (d : Nat) (h : s.tape.state = .finished) : toggle d s = s := by
  simp only [toggle, h, pushesSample, onlyIf_false, runPulse, selectPulse]

theorem keepsFinished_tapeTick (w : Level) (d : Byte) : KeepsFinished (tapeTick w d) := fun s => by
  have hcount : StaysFinished s (countAndLatch w d s) := fun _ => rfl
  have htoggle (e : Nat) : KeepsFinished (toggle e) := fun s h => by rw [toggle_finished e h]
  have hrestart : KeepsFinished restartMeasure := fun _ _ => rfl
  refine hcount.trans ?_
  rw [tapeTick]
  cases (countAndLatch w d s).tape.wdLatch != (countAndLatch w d s).tape.wdPrev with
  | false => exact staysFinished_refl _
  | true => exact keepsFinished_cons (htoggle _) (keepsFinished_cons hrestart keepsFinished_nil) _

/-- A pulse operation asked for by itself does nothing in `FINISHED`, which selects none (log entry 11). -/
theorem keepsFinished_ifSelected {op : PulseOp} (f : State → State) (hop : op ≠ .inert) :
    KeepsFinished (ifSelected op f) := fun s h => by
  have hnot : (selectPulse s.config s.tape == op) = false := by
    simp only [selectPulse, h]
    exact beq_false_of_ne hop.symm
  rw [ifSelected, hnot, onlyIf_false]

/-! ### Ticks, bus scripts and runs -/

/-- Of the eleven steps of a system tick only the codec's touches the tape (45_system_tick R311). -/
theorem keepsFinished_sysTickWith (p : CpuPins) : KeepsFinished (sysTickWith p) :=
  have htake : KeepsFinished (takeCpu p) := fun _ _ => rfl
  have hdecode : KeepsFinished decodeBus := fun _ _ => rfl
  have hdrive : KeepsFinished drivePins := fun _ _ => rfl
  have hints : KeepsFinished driveInterrupts := fun _ _ => rfl
  have hcommit : KeepsFinished commitTick := fun _ _ => rfl
  keepsFinished_cons htake <|
  keepsFinished_cons (keepsFinished_of_leaves (leaves_tape_of_invPart invPart_serveMemory)) <|
  keepsFinished_cons hdecode <|
  keepsFinished_cons hdrive <|
  keepsFinished_cons (fun s => staysFinished_of_tape (tape_vdpTicks s.config.ratio s)) <|
  keepsFinished_cons (keepsFinished_of_leaves (leaves_tape_of_invPart invPart_foldVdp)) <|
  keepsFinished_cons (keepsFinished_of_leaves (leaves_tape_of_invPart invPart_foldKeyboard)) <|
  keepsFinished_cons (keepsFinished_of_leaves (leaves_tape_of_invPart invPart_checkTapeRead)) <|
  keepsFinished_cons (fun s => keepsFinished_tapeTick s.bus.tapeWr s.cpu.d s) <|
  keepsFinished_cons hints <|
  keepsFinished_cons hcommit keepsFinished_nil

theorem keepsFinished_sysTick : KeepsFinished sysTick := keepsFinished_live fun s =>
  (staysFinished_of_tape (leaves_tape_of_invPart invPart_dropCpuAnswer s)).trans (keepsFinished_sysTickWith _ _)

theorem keepsFinished_busIdle (k : Nat) : KeepsFinished (busIdle k) :=
  have hidle : KeepsFinished idleTick := keepsFinished_live fun s =>
    StaysFinished.trans (t := bumpFree s) (fun _ => rfl) (keepsFinished_sysTickWith _ _)
  keepsFinished_repeatTick hidle k

theorem keepsFinished_busOut (port v : Byte) (t : BusTiming) : KeepsFinished (busOut port v t) := fun s =>
  have hout : KeepsFinished (outTick port v) := keepsFinished_live fun _ => keepsFinished_sysTickWith _ _
  (keepsFinished_repeatTick hout t.strobe s).trans (keepsFinished_busIdle t.idle _)

theorem keepsFinished_busIn (port : Byte) (t : BusTiming) : KeepsFinished (busIn port t) := fun s =>
  have hin : KeepsFinished (inTick port) := keepsFinished_live fun _ => keepsFinished_sysTickWith _ _
  have hread : KeepsFinished (live takeRead) := keepsFinished_live fun _ _ => rfl
  (hin s).trans <| (hread _).trans <|
    (keepsFinished_repeatTick hin (t.strobe - 1) _).trans (keepsFinished_busIdle t.idle _)

theorem keepsFinished_runLoop (n : Nat) : KeepsFinished (runLoop n) := by
  induction n with
  | zero => exact staysFinished_refl
  | succ n ih =>
    intro s
    rw [runLoop]
    split
    · exact staysFinished_refl s
    · have hhook := keepsFinished_of_leaves (leaves_tape_of_invPart invPart_askHook) (sysTick s)
      have hturn : StaysFinished (askHook (sysTick s)) (hostTurn (askHook (sysTick s))) := fun _ => rfl
      exact (keepsFinished_sysTick s).trans (hhook.trans (hturn.trans (ih _)))

theorem keepsFinished_run (n : Nat) : KeepsFinished (run n) := fun s =>
  keepsFinished_runLoop n { s with tickCount := 0 }

/-! ### Operations -/

section
variable {i : Instr} {s t : State}

theorem staysFinished_of_next {f : State → State} (h : (.next (f s) : Result) = .next t) (hf : KeepsFinished f) :
    StaysFinished s t := by
  cases h; exact hf s

theorem exec_ticksBlock_staysFinished (h : exec i s = .next t) (hi : ticksBlock i) : StaysFinished s t := by
  rcases hi with rfl | ⟨n, rfl⟩ | ⟨port, v, u, rfl⟩ | ⟨port, u, rfl⟩ | ⟨k, rfl⟩ | ⟨n, v, t1, t2, rfl | rfl⟩ |
    ⟨n, t1, t2, rfl⟩ | ⟨c, t1, t2, rfl⟩ | ⟨b, u, rfl⟩
  · exact staysFinished_of_next h keepsFinished_sysTick
  · exact staysFinished_of_next h (keepsFinished_run n)
  · obtain ⟨-, rfl⟩ := guarded_next h; exact keepsFinished_busOut port v u s
  · obtain ⟨-, rfl⟩ := guarded_next h; exact keepsFinished_busIn port u s
  · exact staysFinished_of_next h (keepsFinished_busIdle k)
  · obtain ⟨-, rfl⟩ := guarded_next h
    exact (keepsFinished_busOut _ (addrByte n) t1 s).trans (keepsFinished_busOut _ v t2 _)
  · obtain ⟨-, rfl⟩ := guarded_next h
    exact (keepsFinished_busOut _ (addrByteX n) t1 s).trans (keepsFinished_busOut _ v t2 _)
  · obtain ⟨-, rfl⟩ := guarded_next h
    exact (keepsFinished_busOut _ (addrByte n) t1 s).trans (keepsFinished_busIn _ t2 _)
  · obtain ⟨-, rfl⟩ := guarded_next h
    exact (keepsFinished_busOut _ (addrByteX 0) t1 s).trans (keepsFinished_busOut _ c t2 _)
  · obtain ⟨-, rfl⟩ := guarded_next h; exact keepsFinished_busOut _ b u s

theorem exec_runsCodec_staysFinished (h : exec i s = .next t) (hi : runsCodec i) (hreset : ¬ resetsCodec i) :
    StaysFinished s t := by
  have hpulse {op : PulseOp} {f : State → State} (hop : op ≠ .inert) : KeepsFinished (live (ifSelected op f)) :=
    keepsFinished_live (keepsFinished_ifSelected f hop)
  rcases hi with ⟨image, himage⟩ | heject | ⟨svc, d, rfl⟩ | rfl | rfl | rfl | rfl | rfl
  · exact absurd (.inl ⟨image, himage⟩) hreset
  · rcases heject with rfl | rfl <;> simp [resetsCodec] at hreset
  · exact staysFinished_of_next h (keepsFinished_live (keepsFinished_tapeTick _ d))
  all_goals exact staysFinished_of_next h (hpulse nofun)

/-- Every operation that does not reset the codec leaves it in `FINISHED`. -/
theorem exec_staysFinished (h : exec i s = .next t) (hreset : ¬ resetsCodec i) : StaysFinished s t := by
  by_cases htick : ticksBlock i
  · exact exec_ticksBlock_staysFinished h htick
  · by_cases hcodec : runsCodec i
    · exact exec_runsCodec_staysFinished h hcodec hreset
    · exact staysFinished_of_tape (exec_tape h htick hcodec hreset)

end

/-- Settles O46: an operation ticks the block, or runs the codec, or leaves the tape, and none of them moves a codec in
`FINISHED`. -/
theorem finishedIsTerminal : Obligations.FinishedIsTerminal := by
  intro i s t hs h hreset
  have hpart := exec_staysFinished h hreset hs
  simp only [codecPart, Prod.mk.injEq] at hpart
  obtain ⟨hstate, hdecoded, hring⟩ := hpart
  exact ⟨hstate.trans hs, hdecoded, hring⟩

end Sys2Proof.Machine
end

section
/-! PROOFS of the family `44_tape_codec`, the outcomes of a step (44_tape_codec R270, log entries 20 and 21): operands
outside the ranges of their rule are refused by name, and within them only an image can be too long. -/
namespace Sys2Proof.Machine

/-- Operands outside the ranges of their rule are refused by the name of the operation (log entry 21). -/
theorem exec_of_not_wf {i : Instr} (s : State) (h : i.wf = false) :
    ∃ name, exec i s = .refused (.outsideDomain name) := by
  cases i with
  | raRowReload | raCell | out | inp | wreg | wregx | rreg | cmd | kout => exact ⟨_, if_neg (ne_true_of_eq_false h)⟩
  | _ => cases h

/-- An insert over `TAPE_MAX` is refused (44_tape_codec R270). -/
theorem exec_insert_tooLong {i : Instr} {image : List Byte} {s : State}
    (hi : i = .tpInsert image ∨ i = .hostInsert image) (h : s.config.tapeMax < image.length) :
    exec i s = .refused .imageTooLong := by
  rcases hi with rfl | rfl <;> exact if_neg h.not_ge

/-- An insert of an allowed length parses its header (44_tape_codec R270, 45_system_tick R319). -/
theorem exec_insert {i : Instr} {image : List Byte} {s : State} (hi : i = .tpInsert image ∨ i = .hostInsert image)
    (h : image.length ≤ s.config.tapeMax) : exec i s = .next (insert image s) := by
  rcases hi with rfl | rfl <;> exact if_pos h

/-- Why an operation may answer no next state: it inserts an image longer than `TAPE_MAX`. -/
def InsertsTooLong (i : Instr) (s : State) : Prop :=
  ∃ image, (i = .tpInsert image ∨ i = .hostInsert image) ∧ s.config.tapeMax < image.length

theorem exec_insert_cases {i : Instr} {image : List Byte} (s : State)
    (hi : i = .tpInsert image ∨ i = .hostInsert image) :
    (∃ t, exec i s = .next t) ∨ InsertsTooLong i s :=
  (le_or_gt image.length s.config.tapeMax).imp (fun hlen => ⟨_, exec_insert hi hlen⟩) fun hlen => ⟨image, hi, hlen⟩

/-- An operation with proper operands answers a next state, or it inserts an image that is too long. -/
theorem exec_of_wf {i : Instr} (s : State) (h : i.wf = true) : (∃ t, exec i s = .next t) ∨ InsertsTooLong i s := by
  cases i with
  | tpInsert => exact exec_insert_cases s (.inl rfl)
  | hostInsert => exact exec_insert_cases s (.inr rfl)
  | raRowReload | raCell | out | inp | wreg | wregx | rreg | cmd | kout => exact .inl ⟨_, if_pos h⟩
  | _ => exact .inl ⟨_, rfl⟩

/-- Settles O5: an empty script is a system tick, and a word is undecodable or a well-formed operation. -/
theorem stepOutcomesAreThese : Obligations.StepOutcomesAreThese := by
  refine ⟨fun s => ?_, fun i s => exec_of_not_wf s⟩
  cases hscript : s.script with
  | nil => exact .inl ⟨_, step_of_empty_script hscript⟩
  | cons w rest =>
    cases hw : decode w with
    | error e => exact .inr (.inl ⟨w, rest, e, rfl, hw, step_of_undecodable hscript hw⟩)
    | ok i =>
      have hstep := step_of_decoded hscript hw
      obtain ⟨hwf, -⟩ := encode_of_decode hw
      rcases exec_of_wf { hostTurn s with script := rest } hwf with ⟨t, ht⟩ | ⟨image, hi, hlen⟩
      · exact .inl ⟨t, hstep.trans ht⟩
      · refine .inr (.inr ⟨w, rest, image, rfl, ?_, hlen, hstep.trans (exec_insert_tooLong hi hlen)⟩)
        rcases hi with rfl | rfl
        · exact .inl hw
        · exact .inr hw

end Sys2Proof.Machine
end

section
/-! PROOFS of the family `44_tape_codec`, insert and eject (44_tape_codec R270 to R274, 30_encoding R126): the first
failing check of a header, what an insert makes of it, and the header of a well-made image. -/
namespace Sys2Proof.Machine

/-! ### The four checks -/

section
variable {b : List Byte}

theorem tenBytes_eq_true_iff {i : Nat} {v : Byte} : tenBytes b i v = true ↔ ∀ j < 10, b.getD (i + j) 0 = v := by
  simp only [tenBytes, imageByte, List.all_eq_true, List.mem_range, beq_iff_eq]

theorem tenBytes_eq_false_iff {i : Nat} {v : Byte} : tenBytes b i v = false ↔ ∃ j < 10, b.getD (i + j) 0 ≠ v := by
  rw [← Bool.not_eq_true, tenBytes_eq_true_iff]
  push Not
  rfl

theorem insertCheck_short (h : b.length < 42) : insertCheck b = some .tooShort := if_pos h

theorem insertCheck_long (h : 42 ≤ b.length) :
    insertCheck b =
      if tenBytes b 0 0xD3 = false then some .badLeadingPreamble
      else if tenBytes b 32 0xD6 = false then some .badTrailingPreamble
      else if b.length < 32 + (parseMeta b).dataLen.toNat + 10 then some .lengthExceedsImage
      else none := by
  simp only [insertCheck, if_neg h.not_gt, Bool.not_eq_true']

/-- Both preambles present, the declared length decides (44_tape_codec R270). -/
theorem insertCheck_preambles (h : 42 ≤ b.length) (hlead : tenBytes b 0 0xD3 = true)
    (htrail : tenBytes b 32 0xD6 = true) :
    insertCheck b = if b.length < 32 + (parseMeta b).dataLen.toNat + 10 then some .lengthExceedsImage else none := by
  rw [insertCheck_long h, hlead, htrail]; rfl

/-! ### Inserting -/

variable {i : Instr} {s : State} (hi : i = .tpInsert b ∨ i = .hostInsert b) (hmax : b.length ≤ s.config.tapeMax)
include hi hmax

theorem exec_insert_fails {e : InsertError} (h : insertCheck b = some e) :
    exec i s = .next { s with result := .inserted false, tape := { s.tape with insertError := some e } } := by
  rw [exec_insert hi hmax, insert, h]; rfl

theorem exec_insert_accepts (h : insertCheck b = none) :
    exec i s = .next { s with result := .inserted true, tape := loadTape b s.tape } := by
  rw [exec_insert hi hmax, insert, h]; rfl

end

/-- Settles O37: each clause names the first check that fails, or that none does. -/
theorem insertChecksInOrder : Obligations.InsertChecksInOrder := by
  intro s b i hi le fails lead trail fits
  have hlead : lead ↔ tenBytes b 0 0xD3 = false := by simp only [tenBytes_eq_false_iff, Nat.zero_add, lead]
  have htrail : trail ↔ tenBytes b 32 0xD6 = false := by simp only [tenBytes_eq_false_iff, trail]
  have hfits : ¬ fits ↔ b.length < 32 + (parseMeta b).dataLen.toNat + 10 := not_le
  rw [hlead, htrail, ← not_not (a := fits), hfits]
  refine ⟨exec_insert_tooLong hi, fun hmax => ⟨fun h => ?_, fun h h1 => ?_, fun h h1 h2 => ?_, fun h h1 h2 h3 => ?_,
    fun h h1 h2 h3 => ?_⟩⟩
  · exact exec_insert_fails hi hmax (insertCheck_short h)
  · exact exec_insert_fails hi hmax (by rw [insertCheck_long h, if_pos h1])
  · exact exec_insert_fails hi hmax (by rw [insertCheck_long h, if_neg h1, if_pos h2])
  · exact exec_insert_fails hi hmax (by rw [insertCheck_long h, if_neg h1, if_neg h2, if_pos (not_not.1 h3)])
  · refine ⟨_, exec_insert_accepts hi hmax (by rw [insertCheck_long h, if_neg h1, if_neg h2, if_neg h3]), rfl, rfl, rfl,
      rfl, rfl, rfl, rfl, rfl, rfl, rfl, rfl, rfl, rfl, rfl, fun k => ?_, rfl, fun k => ?_, rfl, rfl, rfl, rfl, rfl⟩
    all_goals exact Vector.getElem_ofFn k.isLt

/-- Settles O39: both host calls are `eject`, whose fields are the statement's. -/
theorem ejectBlanksTheTape : Obligations.EjectBlanksTheTape := fun _ => ⟨rfl, rfl⟩

/-! ### The header of a well-made image -/

/-- A word is its high byte over its low byte (20_memory R80). -/
theorem extract_high_append_low (w : BitVec 16) : w.extractLsb' 8 8 ++ w.extractLsb' 0 8 = w := by
  ext i hi
  simp only [BitVec.getElem_append, BitVec.getElem_extractLsb']
  split <;> simp_all

section
variable (format version protection : Byte) (name : Vector Byte 6) (startLine : Vector Byte 5)
  (checkPos startAddr dataLen checksum : BitVec 16) (payload : List Byte)

theorem length_makeImage :
    (makeImage format name version startLine protection checkPos startAddr dataLen checksum payload).length =
      42 + payload.length := by
  simp [makeImage]; omega

/-- The preambles of R126 stand where R270 looks for them. -/
theorem tenBytes_makeImage :
    let image := makeImage format name version startLine protection checkPos startAddr dataLen checksum payload
    tenBytes image 0 0xD3 = true ∧ tenBytes image 32 0xD6 = true := by
  simp [tenBytes, List.range_succ, imageByte, makeImage, List.getElem?_append]

theorem name_makeImage :
    (Vector.ofFn fun i : Fin 6 =>
      imageByte (makeImage format name version startLine protection checkPos startAddr dataLen checksum payload)
        (11 + i.val)) = name :=
  Vector.ext fun i hi => by
    rw [Vector.getElem_ofFn hi]
    interval_cases i <;> simp [imageByte, makeImage, List.getElem?_append]

theorem startLine_makeImage :
    (Vector.ofFn fun i : Fin 5 =>
      imageByte (makeImage format name version startLine protection checkPos startAddr dataLen checksum payload)
        (18 + i.val)) = startLine :=
  Vector.ext fun i hi => by
    rw [Vector.getElem_ofFn hi]
    interval_cases i <;> simp [imageByte, makeImage, List.getElem?_append]

/-- The fields of R126 stand at the offsets of R271. -/
theorem parseMeta_makeImage :
    parseMeta (makeImage format name version startLine protection checkPos startAddr dataLen checksum payload) =
      { format := format, name := name, version := version, startLine := startLine, protection := protection
        checkPos := checkPos, startAddr := startAddr, dataLen := dataLen, checksum := checksum } := by
  rw [parseMeta, name_makeImage, startLine_makeImage]
  simp [le16, imageByte, makeImage, List.getElem?_append, extract_high_append_low]

end

/-! ### Cut images -/

section
variable {b : List Byte} {n : Nat}

theorem imageByte_take {i : Nat} (h : i < n) : imageByte (b.take n) i = imageByte b i := by
  simp only [imageByte, List.getD_eq_getElem?_getD, List.getElem?_take, if_pos h]

theorem tenBytes_take {i : Nat} (v : Byte) (h : i + 10 ≤ n) : tenBytes (b.take n) i v = tenBytes b i v := by
  rw [Bool.eq_iff_iff, tenBytes_eq_true_iff, tenBytes_eq_true_iff]
  refine forall₂_congr fun j hj => ?_
  have hbyte : (b.take n).getD (i + j) 0 = b.getD (i + j) 0 := imageByte_take (by omega)
  rw [hbyte]

/-- A cut behind the header leaves the declared length (44_tape_codec R271). -/
theorem dataLen_take (h : 42 ≤ n) : (parseMeta (b.take n)).dataLen = (parseMeta b).dataLen := by
  simp only [parseMeta, le16, imageByte_take (show 28 < n by omega), imageByte_take (show 28 + 1 < n by omega)]

/-- An image whose preambles are in place, cut behind the header but short of its declared length, is rejected for that
(44_tape_codec R272). -/
theorem insertCheck_take_short (h : 42 ≤ n) (hn : n ≤ b.length) (hlead : tenBytes b 0 0xD3 = true)
    (htrail : tenBytes b 32 0xD6 = true) (hshort : n < 42 + (parseMeta b).dataLen.toNat) :
    insertCheck (b.take n) = some .lengthExceedsImage := by
  have hlen : (b.take n).length = n := List.length_take_of_le hn
  rw [insertCheck_preambles (by omega) ((tenBytes_take _ (by omega)).trans hlead)
    ((tenBytes_take _ (by omega)).trans htrail), dataLen_take h, hlen, if_pos (by omega)]

end

/-- Settles O38: the whole image passes the checks and its header is its fields; the first two cuts fall short of the
header, and the third of the declared length. -/
theorem insertedHeaderReadsBack : Obligations.InsertedHeaderReadsBack := by
  intro s format version protection name startLine checkPos startAddr dataLen checksum payload hpayload image rejected
    hmax
  have hlen : image.length = 42 + payload.length := length_makeImage ..
  obtain ⟨hlead, htrail⟩ : tenBytes image 0 0xD3 = true ∧ tenBytes image 32 0xD6 = true := tenBytes_makeImage ..
  have hmeta : parseMeta image =
      { format := format, name := name, version := version, startLine := startLine, protection := protection
        checkPos := checkPos, startAddr := startAddr, dataLen := dataLen, checksum := checksum } :=
    parseMeta_makeImage ..
  have reject {n : Nat} {e : InsertError} (h : insertCheck (image.take n) = some e) : rejected (image.take n) e :=
    ⟨_, exec_insert_fails (.inl rfl) ((List.length_take_le' n image).trans hmax) h, rfl, rfl⟩
  have hshort {n : Nat} (hn : n < 42) : insertCheck (image.take n) = some .tooShort :=
    insertCheck_short ((List.length_take_le n image).trans_lt hn)
  have haccept : insertCheck image = none := by
    rw [insertCheck_preambles (by omega) hlead htrail, hmeta, if_neg (by dsimp only; omega)]
  refine ⟨hlen, ⟨_, exec_insert_accepts (.inl rfl) hmax haccept, rfl, rfl, hmeta⟩, reject (hshort (by omega)),
    reject (hshort (by omega)), fun hpos => reject ?_⟩
  exact insertCheck_take_short (by omega) (by omega) hlead htrail (by rw [hmeta]; dsimp only; omega)

end Sys2Proof.Machine
end

section
/-! PROOFS of the family `44_tape_codec`, the pulse operations (44_tape_codec R280 to R290). When the codec selects each
of them is said once, as an equivalence; asked for by itself an operation is the codec's own step, or nothing. -/
namespace Sys2Proof.Machine

/-! ### The selection -/

/-- The front of the ring is a 0 bit, or a synchro (30_encoding R124). -/
def ZeroFront (c : Config) (ring : List Nat) : Prop :=
  ∃ a b rest, ring = a :: b :: rest ∧ isLong c a = true ∧ isLong c b = true

/-- The front of the ring is a 1 bit (30_encoding R124). -/
def OneFront (c : Config) (ring : List Nat) : Prop :=
  ∃ w x y z rest, ring = w :: x :: y :: z :: rest ∧
    isShort c w = true ∧ isShort c x = true ∧ isShort c y = true ∧ isShort c z = true

section
variable {c : Config} {ring : List Nat}

theorem frontLongPair_iff : frontLongPair c ring = true ↔ ZeroFront c ring := by
  constructor
  · intro h
    unfold frontLongPair at h
    split at h
    · next a b rest => exact ⟨a, b, rest, rfl, by simpa using h⟩
    · cases h
  · rintro ⟨a, b, rest, rfl, ha, hb⟩
    simp only [frontLongPair, ha, hb, Bool.and_self]

theorem frontFourShort_iff : frontFourShort c ring = true ↔ OneFront c ring := by
  constructor
  · intro h
    unfold frontFourShort at h
    split at h
    · next w x y z rest => exact ⟨w, x, y, z, rest, rfl, by simpa [and_assoc] using h⟩
    · cases h
  · rintro ⟨w, x, y, z, rest, rfl, hw, hx, hy, hz⟩
    simp only [frontFourShort, hw, hx, hy, hz, Bool.and_self]

end

/-- When a row of F-PULSE is selected, in the words of 44_tape_codec R281, R286, R287 and R290. -/
def SelectedWhen (c : Config) (t : Tape) : PulseOp → Prop
  | .sync => t.state = .awaitSync1
  | .bit0 => t.state = .headerBits ∧ ZeroFront c t.ring
  | .bit1 => t.state = .headerBits ∧ ¬ ZeroFront c t.ring ∧ OneFront c t.ring
  | .err => t.state = .headerBits ∧ ¬ ZeroFront c t.ring ∧ ¬ OneFront c t.ring ∧ 4 ≤ t.ring.length
  | .wait =>
    t.state = .headerBits ∧ ¬ ZeroFront c t.ring ∧ ¬ OneFront c t.ring ∧ t.ring.length < 4 ∨
      t.state = .error ∧ t.ring = []
  | .drain => t.state = .error ∧ t.ring ≠ []
  | .notimpl => t.state = .awaitSync2 ∨ t.state = .payload
  | .inert => t.state = .finished

section
variable {c : Config} {t : Tape}

/-- What the codec selects is selected by the rules. -/
theorem selectedWhen_selectPulse : SelectedWhen c t (selectPulse c t) := by
  cases hst : t.state with
  | awaitSync1 | awaitSync2 | payload | finished => simp [selectPulse, hst, SelectedWhen]
  | error => by_cases hring : t.ring = [] <;> simp [selectPulse, hst, SelectedWhen, hring]
  | headerBits =>
    simp only [selectPulse, hst]
    split
    · next hzero => exact ⟨hst, frontLongPair_iff.1 hzero⟩
    · next hzero =>
      have hzero := mt frontLongPair_iff.2 hzero
      split
      · next hone => exact ⟨hst, hzero, frontFourShort_iff.1 hone⟩
      · next hone =>
        have hone := mt frontFourShort_iff.2 hone
        split
        · next hlen => exact ⟨hst, hzero, hone, hlen⟩
        · next hlen => exact .inl ⟨hst, hzero, hone, not_le.1 hlen⟩

theorem selectPulse_of_selectedWhen {op : PulseOp} (h : SelectedWhen c t op) : selectPulse c t = op := by
  cases op with
  | sync | inert => simp only [selectPulse, show t.state = _ from h]
  | notimpl => rcases h with h | h <;> simp only [selectPulse, h]
  | bit0 =>
    obtain ⟨hst, hzero⟩ := h
    simp only [selectPulse, hst, if_pos (frontLongPair_iff.2 hzero)]
  | bit1 =>
    obtain ⟨hst, hzero, hone⟩ := h
    simp only [selectPulse, hst, if_neg (mt frontLongPair_iff.1 hzero), if_pos (frontFourShort_iff.2 hone)]
  | err =>
    obtain ⟨hst, hzero, hone, hlen⟩ := h
    simp only [selectPulse, hst, if_neg (mt frontLongPair_iff.1 hzero), if_neg (mt frontFourShort_iff.1 hone),
      if_pos hlen]
  | wait =>
    rcases h with ⟨hst, hzero, hone, hlen⟩ | ⟨hst, hring⟩
    · simp only [selectPulse, hst, if_neg (mt frontLongPair_iff.1 hzero), if_neg (mt frontFourShort_iff.1 hone),
        if_neg hlen.not_ge]
    · simp only [selectPulse, hst, if_pos hring]
  | drain =>
    obtain ⟨hst, hring⟩ := h
    simp only [selectPulse, hst, if_neg hring]

theorem selectPulse_eq_iff {op : PulseOp} : selectPulse c t = op ↔ SelectedWhen c t op :=
  ⟨fun h => h ▸ selectedWhen_selectPulse, selectPulse_of_selectedWhen⟩

end

/-! ### The operations -/

/-- What a row of F-PULSE does with the codec. -/
def pulseStep : PulseOp → State → State
  | .sync => pulseSync
  | .bit0 => pulseBit0
  | .bit1 => pulseBit1
  | .err => pulseErr
  | .drain => pulseDrain
  | .notimpl => pulseNotimpl
  | .wait | .inert => id

/-- The operation `i` of a script asks for the row `op` of F-PULSE. -/
def AsksFor (i : Instr) (op : PulseOp) : Prop := ∀ s, exec i s = .next (live (ifSelected op (pulseStep op)) s)

theorem tpSync_asksFor : AsksFor .tpSync .sync := fun _ => rfl

theorem tpBit0_asksFor : AsksFor .tpBit0 .bit0 := fun _ => rfl

theorem tpBit1_asksFor : AsksFor .tpBit1 .bit1 := fun _ => rfl

theorem tpErr_asksFor : AsksFor .tpErr .err := fun _ => rfl

theorem tpDrain_asksFor : AsksFor .tpDrain .drain := fun _ => rfl

theorem tpNotimpl_asksFor : AsksFor .tpNotimpl .notimpl := fun _ => rfl

section
variable {s : State} {op : PulseOp}

theorem runPulse_of_selected (h : SelectedWhen s.config s.tape op) : runPulse s = pulseStep op s := by
  rw [← selectPulse_eq_iff] at h
  rw [runPulse, h]
  cases op <;> rfl

/-- In a state that pushes samples a toggle is the operation that the pushed ring selects (44_tape_codec R281). -/
theorem toggle_of_pushes (d : Nat) (h : pushesSample s.tape.state = true) :
    toggle d s = runPulse (onTape (push s.config d) s) := by
  rw [toggle, h, onlyIf_true]

variable {i : Instr} (hi : AsksFor i op) (hf : s.fault = none)
include hi hf

theorem exec_selected (h : SelectedWhen s.config s.tape op) : exec i s = .next (pulseStep op s) :=
  exec_of_live hf (hi s) (by rw [ifSelected, selectPulse_eq_iff.2 h, beq_self_eq_true, onlyIf_true])

theorem exec_notSelected (h : ¬ SelectedWhen s.config s.tape op) : exec i s = .next s :=
  exec_of_live hf (hi s) (by rw [ifSelected, beq_false_of_ne (mt selectPulse_eq_iff.1 h), onlyIf_false])

/-- The operation that the codec selects is the codec's own step. -/
theorem exec_eq_runPulse (h : SelectedWhen s.config s.tape op) : exec i s = .next (runPulse s) := by
  rw [exec_selected hi hf h, runPulse_of_selected h]

end

/-- Settles O41: a state pushes its sample and runs the selected row, or pushes nothing and is inert or halts. -/
theorem toggleRunsSelectedOperation : Obligations.ToggleRunsSelectedOperation := by
  intro s d hf c old ring pushed zero one
  have hpushes (h : pushesSample s.tape.state = true) : toggle d s = runPulse pushed := toggle_of_pushes d h
  have hasked {i : Instr} {op : PulseOp} (hi : AsksFor i op) (hstate : pushesSample s.tape.state = true)
      (h : SelectedWhen c pushed.tape op) : exec i pushed = .next (toggle d s) := by
    rw [hpushes hstate]; exact exec_eq_runPulse (s := pushed) hi hf h
  refine ⟨toggle_finished d, fun h => ?_, fun h => hasked tpSync_asksFor (by rw [h]; rfl) h, fun h =>
    hasked tpDrain_asksFor (by rw [h]; rfl) ⟨h, List.append_ne_nil_of_right_ne_nil _ nofun⟩, fun h => ?_⟩
  · have hpush : pushesSample s.tape.state = false := by rcases h with h | h <;> rw [h] <;> rfl
    rw [toggle, hpush, onlyIf_false, runPulse_of_selected (op := .notimpl) h]
    exact raise_of_running s _ hf
  · have hpush : pushesSample s.tape.state = true := by rw [h]; rfl
    exact ⟨fun h0 => hasked tpBit0_asksFor hpush ⟨h, h0⟩, fun h0 h1 => hasked tpBit1_asksFor hpush ⟨h, h0, h1⟩,
      fun h0 h1 hlen => hasked tpErr_asksFor hpush ⟨h, h0, h1, hlen⟩, fun h0 h1 hlen =>
        (hpushes hpush).trans (runPulse_of_selected (s := pushed) (op := .wait) (.inl ⟨h, h0, h1, hlen⟩))⟩

/-! ### The synchro search -/

/-- Settles O42: the search finds the first pair or none, and the operation stores what it leaves. -/
theorem synchroSearchTakesFirstLongPair : Obligations.SynchroSearchTakesFirstLongPair := by
  intro s hf ring pairAt
  refine ⟨fun hst => ⟨fun j hj hfirst => ?_, fun hnone => ?_⟩, exec_notSelected tpSync_asksFor hf⟩
  all_goals
    rw [exec_selected tpSync_asksFor hf hst, pulseStep, pulseSync, onTape, stepSync]
    rcases syncSearch_cases s.config s.tape.ring with ⟨pre, a, b, rest, hring, ha, hb, hbefore, hfound⟩ | ⟨hno, hfound⟩
  · have hpair : pairAt pre.length := ⟨a, b, by simp [ring, hring], by simp [ring, hring], ha, hb⟩
    have hplace : j = pre.length :=
      le_antisymm (not_lt.1 fun hlt => hfirst _ hlt hpair) (not_lt.1 fun hlt => hbefore j hlt hj)
    have hrest : ring.drop (j + 2) = rest := by simp [ring, hring, hplace]
    rw [hfound, hrest]; rfl
  · exact absurd hj (hno j)
  · exact absurd ⟨a, b, by simp [ring, hring], by simp [ring, hring], ha, hb⟩ (hnone pre.length)
  · rw [hfound]; rfl

/-! ### Bits, errors, drain and halt -/

/-- A bit in its place, and the byte's end with the eighth (44_tape_codec R288). -/
theorem addBit_eq (b : Bool) (t : Tape) :
    addBit b t =
      let byte := t.curByte ||| ((if b then 1#8 else 0#8) <<< t.bitCount)
      { t with
          curByte := byte, bitCount := t.bitCount + 1
          decoded := if t.bitCount = 7 then t.decoded ++ [byte] else t.decoded
          state := if t.bitCount = 7 then .awaitSync1 else t.state } := by
  simp only [addBit, Nat.reduceEqDiff]
  split
  · next h => simp [h]
  · rfl

/-- Settles O43: selected, a bit code adds its bit and any other four samples are the error; otherwise nothing. -/
theorem bitPulsesAssembleBytes : Obligations.BitPulsesAssembleBytes := by
  intro s hf c t zero one added
  refine ⟨fun hst h0 => ?_, fun hst h0 h1 => ?_, fun hst h0 h1 hlen => ?_, exec_notSelected tpBit0_asksFor hf,
    exec_notSelected tpBit1_asksFor hf, exec_notSelected tpErr_asksFor hf⟩
  · rw [exec_selected tpBit0_asksFor hf ⟨hst, h0⟩, pulseStep, pulseBit0, onTape, addBit_eq]
    simp [added, shift, t, show s.tape.state = _ from hst]
  · rw [exec_selected tpBit1_asksFor hf ⟨hst, h0, h1⟩, pulseStep, pulseBit1, onTape, addBit_eq]
    simp [added, shift, t, show s.tape.state = _ from hst]
  · rw [exec_selected tpErr_asksFor hf ⟨hst, h0, h1, hlen⟩]; rfl

/-- Settles O44: selected, a drain takes the oldest sample and a state without behaviour halts; otherwise nothing. -/
theorem drainHaltAndInert : Obligations.DrainHaltAndInert := by
  intro s hf t
  refine ⟨fun a rest hst hring => ?_, exec_notSelected tpDrain_asksFor hf, fun hst => ?_, fun h2 hp =>
    exec_notSelected tpNotimpl_asksFor hf (not_or.2 ⟨h2, hp⟩), exec_of_live hf (f := id) rfl rfl⟩
  · have hring' : s.tape.ring = a :: rest := hring
    have hst' : s.tape.state = .error := hst
    rw [exec_selected tpDrain_asksFor hf ⟨hst, by rw [hring']; exact nofun⟩]
    simp only [pulseStep, pulseDrain, drainOne, onTape, logEvent, shift, hring', hst', List.headD_cons, List.drop_one,
      List.tail_cons, t]
  · rw [exec_selected tpNotimpl_asksFor hf hst]
    exact congrArg _ (raise_of_running s _ hf)

/-! ### The codec tick -/

/-- The pulses of the tape leave the line and its measure (44_tape_codec R280, R281). -/
theorem toggle_wdLatch (d : Nat) (s : State) : (toggle d s).tape.wdLatch = s.tape.wdLatch := by
  have h := congrArg (fun u => u.tape.wdLatch) (toggle_setMeasure s.tape.elapsed s.tape.wdLatch s.tape.wdPrev d s)
  exact h

/-- Settles O40: a tick counts and latches; a change of level is a toggle and, in a running block, a new measure. -/
theorem codecTickFollowsTheWire : Obligations.CodecTickFollowsTheWire := by
  intro s svc d hf level counted after
  have hcount : countAndLatch (svc.getLsbD 2) d s = counted := rfl
  have htick {t : State} (ht : t = tapeTick (svc.getLsbD 2) d s) : exec (.tpTick svc d) s = .next t :=
    exec_of_live hf rfl ht
  have hchanged (hne : level ≠ s.tape.wdPrev) : tapeTick (svc.getLsbD 2) d s = live restartMeasure after := by
    have hbne : (counted.tape.wdLatch != counted.tape.wdPrev) = true := bne_iff_ne.2 hne
    rw [tapeTick, hcount, hbne, onlyIf_true, liveSeq_cons, live_of_running counted _ hf]; rfl
  refine ⟨fun heq => htick ?_, fun hne hrun => htick ?_, fun hne hhalt => htick ?_⟩
  · have hbne : (counted.tape.wdLatch != counted.tape.wdPrev) = false := bne_eq_false_iff_eq.2 heq
    rw [tapeTick, hcount, hbne, onlyIf_false]
  · have hlatch : after.tape.wdLatch = level := toggle_wdLatch _ counted
    rw [hchanged hne, live_of_running after _ hrun, ← hlatch]; rfl
  · obtain ⟨e, he⟩ := Option.ne_none_iff_exists'.1 hhalt
    rw [hchanged hne, live_of_halted after _ e he]

end Sys2Proof.Machine
end

section
/-! PROOFS of the family `44_tape_codec`, a whole message (44_tape_codec R286 to R289, 30_encoding R124, R125). The ring
is empty between two codes of a message, so the samples of a synchro or of one bit have one effect on the codec, and the
effects of a byte's codes and of a message's bytes follow one another. -/
namespace Sys2Proof.Machine

/-! ### Samples that make no code yet -/

/-- The codec with these samples in its ring. -/
def withRing (ring : List Nat) (t : Tape) : Tape := { t with ring := ring }

section
variable {s : State} {ring : List Nat} {d : Nat}

theorem onTape_withRing_self (h : s.tape.ring = ring) : onTape (withRing ring) s = s := by subst h; rfl

/-- A ring with room takes the sample, and the row it selects runs (44_tape_codec R281, R282). -/
theorem toggle_withRing {op : PulseOp} (hst : pushesSample s.tape.state = true) (hroom : ring.length < s.config.ringCap)
    (hop : SelectedWhen s.config (withRing (ring ++ [d]) s.tape) op) :
    toggle d (onTape (withRing ring) s) = pulseStep op (onTape (withRing (ring ++ [d])) s) := by
  have hpush : push s.config d (withRing ring s.tape) = withRing (ring ++ [d]) s.tape := by
    rw [push, if_neg (show ¬ (withRing ring s.tape).ring.length = _ from hroom.ne)]; rfl
  have hstep : onTape (push s.config d) (onTape (withRing ring) s) = onTape (withRing (ring ++ [d])) s :=
    congrArg (fun t => { s with tape := t }) hpush
  rw [toggle_of_pushes (s := onTape (withRing ring) s) d hst, onTape_config, hstep]
  exact runPulse_of_selected hop

/-- A live feed is one toggle after another. -/
theorem feed_cons (ds : List Nat) (hf : s.fault = none) : feed (d :: ds) s = feed ds (toggle d s) := by
  rw [feed, live_of_running s _ hf]

end

/-- What R5 asks of the ring and the two windows (44_tape_codec R282, 30_encoding R123). -/
theorem constraints_codec {c : Config} (hc : c.Constraints) : 5 ≤ c.ringCap ∧ c.shortMax < c.longMin := by
  obtain ⟨-, -, -, -, -, -, -, -, -, -, -, -, -, -, hring, -, -, hwindows, -⟩ := hc
  exact ⟨hring, hwindows⟩

/-- The windows of the two pulse lengths are disjoint. -/
theorem not_isLong_of_isShort {c : Config} {d : Nat} (hc : c.Constraints) (h : isShort c d = true) :
    ¬ isLong c d = true := by
  obtain ⟨-, hwindows⟩ := constraints_codec hc
  simp only [isShort, isLong, Bool.and_eq_true, decide_eq_true_eq] at h ⊢
  omega

theorem not_zeroFront_single (c : Config) (d : Nat) : ¬ ZeroFront c [d] := by
  rintro ⟨a, b, rest, hring, -⟩; cases hring

theorem not_zeroFront_of_not_isLong {c : Config} {d : Nat} (ds : List Nat) (h : ¬ isLong c d = true) :
    ¬ ZeroFront c (d :: ds) := by
  rintro ⟨a, b, rest, hring, ha, -⟩; cases hring; exact h ha

theorem not_oneFront_of_length {c : Config} {ring : List Nat} (h : ring.length < 4) : ¬ OneFront c ring := by
  rintro ⟨w, x, y, z, rest, rfl, -⟩
  simp only [List.length_cons] at h
  omega

/-! ### One code -/

/-- The codec at the start of a byte (44_tape_codec R286). -/
def startByte (t : Tape) : Tape := { t with state := .headerBits, curByte := 0, bitCount := 0 }

section
variable {s : State} (hf : s.fault = none) (hc : s.config.Constraints)
include hf hc

/-- A sample that completes no code waits in the ring (44_tape_codec R287). -/
theorem feed_waits {ring ds : List Nat} {d : Nat} (hst : s.tape.state = .headerBits) (hlen : ring.length < 3)
    (hzero : ¬ ZeroFront s.config (ring ++ [d])) :
    feed (d :: ds) (onTape (withRing ring) s) = feed ds (onTape (withRing (ring ++ [d])) s) := by
  obtain ⟨hcap, -⟩ := constraints_codec hc
  have hfour : (ring ++ [d]).length < 4 := by simp only [List.length_append, List.length_singleton]; omega
  rw [feed_cons _ (show (onTape (withRing ring) s).fault = none from hf),
    toggle_withRing (op := .wait) (by rw [hst]; rfl) (by omega)
      (.inl ⟨hst, hzero, not_oneFront_of_length hfour, hfour⟩)]
  rfl

variable (hring : s.tape.ring = [])
include hring

/-- Two long samples that a waiting codec is fed are the synchro. -/
theorem feed_synchro {a b : Nat} (ds : List Nat) (hst : s.tape.state = .awaitSync1) (ha : isLong s.config a = true)
    (hb : isLong s.config b = true) : feed (a :: b :: ds) s = feed ds (onTape startByte s) := by
  obtain ⟨hcap, -⟩ := constraints_codec hc
  have hpush : pushesSample s.tape.state = true := by rw [hst]; rfl
  have hfirst : toggle a s = onTape (withRing [a]) s := by
    have h := toggle_withRing (ring := []) (d := a) (op := .sync) hpush (by simp; omega) hst
    rwa [onTape_withRing_self hring] at h
  have hfound : syncSearch s.config [a, b] = ([], true) := by rw [syncSearch, ha, hb]; rfl
  have hsecond : toggle b (onTape (withRing [a]) s) = onTape startByte s := by
    rw [toggle_withRing (ring := [a]) (op := .sync) hpush (by simp; omega) hst]
    have hstep : stepSync s.config (withRing [a, b] s.tape) = startByte (withRing [] s.tape) := by
      rw [stepSync, withRing, hfound]; rfl
    have hall : pulseSync (onTape (withRing [a, b]) s) = onTape startByte (onTape (withRing []) s) :=
      congrArg (fun t => { s with tape := t }) hstep
    exact hall.trans (by rw [onTape_withRing_self hring])
  rw [feed_cons _ hf, hfirst, feed_cons _ (show (onTape (withRing [a]) s).fault = none from hf), hsecond]

variable (hst : s.tape.state = .headerBits)
include hst

/-- The sample that completes a bit code adds the bit and empties the ring (44_tape_codec R287, R288). -/
theorem feed_completes {ring ds : List Nat} {d : Nat} {b : Bool} {op : PulseOp} (hlen : ring.length ≤ 3)
    (hop : SelectedWhen s.config (withRing (ring ++ [d]) s.tape) op)
    (hbit : pulseStep op (onTape (withRing (ring ++ [d])) s) = onTape (addBit b) (onTape (withRing []) s)) :
    feed (d :: ds) (onTape (withRing ring) s) = feed ds (onTape (addBit b) s) := by
  obtain ⟨hcap, -⟩ := constraints_codec hc
  rw [feed_cons _ (show (onTape (withRing ring) s).fault = none from hf),
    toggle_withRing (by rw [hst]; rfl) (by omega) hop, hbit, onTape_withRing_self hring]

theorem feed_zero {a b : Nat} (ds : List Nat) (ha : isLong s.config a = true) (hb : isLong s.config b = true) :
    feed (a :: b :: ds) s = feed ds (onTape (addBit false) s) := by
  have hzero : ZeroFront s.config [a, b] := ⟨a, b, [], rfl, ha, hb⟩
  calc feed (a :: b :: ds) s
      = feed (a :: b :: ds) (onTape (withRing []) s) := by rw [onTape_withRing_self hring]
    _ = feed (b :: ds) (onTape (withRing [a]) s) :=
        feed_waits hf hc hst (by simp) (not_zeroFront_single _ a)
    _ = feed ds (onTape (addBit false) s) :=
        feed_completes (op := .bit0) hf hc hring hst (by simp) ⟨hst, hzero⟩ rfl

theorem feed_one {w x y z : Nat} (ds : List Nat) (hw : isShort s.config w = true) (hx : isShort s.config x = true)
    (hy : isShort s.config y = true) (hz : isShort s.config z = true) :
    feed (w :: x :: y :: z :: ds) s = feed ds (onTape (addBit true) s) := by
  have hone : OneFront s.config [w, x, y, z] := ⟨w, x, y, z, [], rfl, hw, hx, hy, hz⟩
  have hzero (ring : List Nat) : ¬ ZeroFront s.config (w :: ring) :=
    not_zeroFront_of_not_isLong ring (not_isLong_of_isShort hc hw)
  calc feed (w :: x :: y :: z :: ds) s
      = feed (w :: x :: y :: z :: ds) (onTape (withRing []) s) := by rw [onTape_withRing_self hring]
    _ = feed (x :: y :: z :: ds) (onTape (withRing [w]) s) := feed_waits hf hc hst (by simp) (hzero [])
    _ = feed (y :: z :: ds) (onTape (withRing [w, x]) s) := feed_waits hf hc hst (by simp) (hzero [x])
    _ = feed (z :: ds) (onTape (withRing [w, x, y]) s) := feed_waits hf hc hst (by simp) (hzero [x, y])
    _ = feed ds (onTape (addBit true) s) :=
        feed_completes (op := .bit1) hf hc hring hst (by simp) ⟨hst, hzero _, hone⟩ rfl

end

/-! ### One byte -/

/-- The bits added one after another. -/
def addBits (bs : List Bool) (t : Tape) : Tape := bs.foldl (fun t b => addBit b t) t

/-- The codec fed with the pulses of bits that fit into the byte adds these bits. -/
theorem feed_bits {bs : List Bool} {ps ds : List Nat} {s : State} (hf : s.fault = none) (hc : s.config.Constraints)
    (hring : s.tape.ring = []) (hst : bs ≠ [] → s.tape.state = .headerBits) (hfit : s.tape.bitCount + bs.length ≤ 8)
    (hps : pulsesCarry s.config bs ps) : feed (ps ++ ds) s = feed ds (onTape (addBits bs) s) := by
  induction bs generalizing ps s with
  | nil => rw [show ps = [] from hps]; rfl
  | cons b bs ih =>
    have hread := hst (List.cons_ne_nil b bs)
    rw [List.length_cons] at hfit
    have hring' : (addBit b s.tape).ring = [] := by rw [addBit_eq]; exact hring
    have hfit' : (addBit b s.tape).bitCount + bs.length ≤ 8 := by rw [addBit_eq]; dsimp only; omega
    have hst' (hbs : bs ≠ []) : (addBit b s.tape).state = .headerBits := by
      have hlen := List.length_pos_iff.2 hbs
      rw [addBit_eq]
      exact (if_neg (by omega)).trans hread
    have rest {qs : List Nat} (hqs : pulsesCarry s.config bs qs) :
        feed (qs ++ ds) (onTape (addBit b) s) = feed ds (onTape (addBits (b :: bs)) s) :=
      ih (s := onTape (addBit b) s) hf hc hring' hst' hfit' hqs
    cases b with
    | false =>
      obtain ⟨p, q, qs, rfl, hp, hq, hqs⟩ := hps
      exact (feed_zero hf hc hring hread (qs ++ ds) hp hq).trans (rest hqs)
    | true =>
      obtain ⟨w, x, y, z, qs, rfl, hw, hx, hy, hz, hqs⟩ := hps
      exact (feed_one hf hc hring hread (qs ++ ds) hw hx hy hz).trans (rest hqs)

/-- The bit at place `n` over the lower bits of a byte. -/
theorem setWidth_or_bit (b : Byte) (n : Nat) :
    (b.setWidth n).setWidth 8 ||| ((if b.getLsbD n then 1#8 else 0#8) <<< n) = (b.setWidth (n + 1)).setWidth 8 := by
  ext i hi
  rcases lt_trichotomy i n with h | rfl | h
  · simp [h, h.le]
  · cases hbit : b.getLsbD i <;> simp [hbit]
  · have hone : (1#8)[i - n]'(by omega) = false := by rw [BitVec.getElem_one]; exact decide_eq_false (by omega)
    cases b.getLsbD n <;> simp [h.not_gt, h.not_ge, hone]

theorem addBits_concat (bs : List Bool) (b : Bool) (t : Tape) : addBits (bs ++ [b]) t = addBit b (addBits bs t) :=
  List.foldl_concat ..

/-- The first bits of a byte, least significant first, make its lower bits (30_encoding R125). -/
theorem addBits_range (b : Byte) {n : Nat} (t : Tape) (hn : n ≤ 7) :
    addBits ((List.range n).map b.getLsbD) (startByte t) =
      { startByte t with curByte := (b.setWidth n).setWidth 8, bitCount := n } := by
  induction n with
  | zero =>
    have hzero : (b.setWidth 0).setWidth 8 = 0#8 := by rw [BitVec.of_length_zero (x := b.setWidth 0)]; rfl
    rw [hzero]; rfl
  | succ n ih =>
    have hnot : ¬ n = 7 := by omega
    rw [List.range_succ, List.map_append, List.map_singleton, addBits_concat, ih (by omega)]
    simp only [addBit_eq, if_neg hnot, setWidth_or_bit]

/-- The codec with a byte received (44_tape_codec R288). -/
def receiveByte (t : Tape) (b : Byte) : Tape :=
  { t with curByte := b, bitCount := 8, decoded := t.decoded ++ [b], state := .awaitSync1 }

/-- The eight bits of a byte, added from its start, are the byte. -/
theorem addBits_byteBits (b : Byte) (t : Tape) : addBits (byteBits b) (startByte t) = receiveByte t b := by
  have hbits : byteBits b = (List.range 7).map b.getLsbD ++ [b.getLsbD 7] := rfl
  rw [hbits, addBits_concat, addBits_range b t le_rfl]
  simp only [addBit_eq, setWidth_or_bit, if_true, startByte, receiveByte, Nat.reduceAdd,
    BitVec.setWidth_eq]

/-- The codec fed with the pulses of a byte receives it. -/
theorem feed_byte {b : Byte} {x y : Nat} {bits : List Nat} {s : State} (ds : List Nat) (hf : s.fault = none)
    (hc : s.config.Constraints) (hring : s.tape.ring = []) (hst : s.tape.state = .awaitSync1)
    (hx : isLong s.config x = true) (hy : isLong s.config y = true) (hbits : pulsesCarry s.config (byteBits b) bits) :
    feed (x :: y :: (bits ++ ds)) s = feed ds (onTape (receiveByte · b) s) := by
  have hbyte : onTape (addBits (byteBits b)) (onTape startByte s) = onTape (receiveByte · b) s :=
    congrArg (fun t => { s with tape := t }) (addBits_byteBits b s.tape)
  have hfeed := feed_bits (s := onTape startByte s) (ds := ds) hf hc hring (fun _ => rfl) (by rfl) hbits
  rw [feed_synchro hf hc hring _ hst hx hy, hfeed, hbyte]

/-! ### The message -/

/-- The codec fed with the pulses of a message receives its bytes. -/
theorem feed_message {message : List Byte} {pulses : List Nat} {s : State} (hf : s.fault = none)
    (hc : s.config.Constraints) (hring : s.tape.ring = []) (hst : s.tape.state = .awaitSync1)
    (h : pulsesCarryBytes s.config message pulses) : feed pulses s = onTape (message.foldl receiveByte) s := by
  induction message generalizing pulses s with
  | nil => rw [show pulses = [] from h]; rfl
  | cons b message ih =>
    obtain ⟨x, y, bits, ds, rfl, hx, hy, hbits, hds⟩ := h
    rw [feed_byte ds hf hc hring hst hx hy hbits, ih (s := onTape (receiveByte · b) s) hf hc hring rfl hds]
    rfl

section
variable (message : List Byte) (t : Tape)

theorem ring_receive : (message.foldl receiveByte t).ring = t.ring := by
  induction message generalizing t with
  | nil => rfl
  | cons b message ih => exact ih (receiveByte t b)

theorem state_receive (h : t.state = .awaitSync1) : (message.foldl receiveByte t).state = .awaitSync1 := by
  induction message generalizing t with
  | nil => exact h
  | cons b message ih => exact ih (receiveByte t b) rfl

theorem decoded_receive : (message.foldl receiveByte t).decoded = t.decoded ++ message := by
  induction message generalizing t with
  | nil => exact (List.append_nil _).symm
  | cons b message ih => exact (ih (receiveByte t b)).trans (List.append_assoc ..)

/-- The accumulator keeps the last byte received. -/
theorem accumulator_receive {b : Byte} (h : b ∈ message.getLast?) :
    (message.foldl receiveByte t).curByte = b ∧ (message.foldl receiveByte t).bitCount = 8 := by
  obtain ⟨init, rfl⟩ := List.getLast?_eq_some_iff.1 h
  rw [List.foldl_append]
  exact ⟨rfl, rfl⟩

end

/-- A bit costs two to four pulses. -/
theorem length_of_pulsesCarry {c : Config} {bs : List Bool} {ps : List Nat} (h : pulsesCarry c bs ps) :
    2 * bs.length ≤ ps.length ∧ ps.length ≤ 4 * bs.length := by
  induction bs generalizing ps with
  | nil => rw [show ps = [] from h]; exact ⟨le_rfl, le_rfl⟩
  | cons b bs ih =>
    cases b with
    | false =>
      obtain ⟨p, q, qs, rfl, -, -, hqs⟩ := h
      have := ih hqs
      simp only [List.length_cons]; omega
    | true =>
      obtain ⟨w, x, y, z, qs, rfl, -, -, -, -, hqs⟩ := h
      have := ih hqs
      simp only [List.length_cons]; omega

/-- A byte costs its synchro and eight bits. -/
theorem length_of_pulsesCarryBytes {c : Config} {message : List Byte} {ps : List Nat}
    (h : pulsesCarryBytes c message ps) : 18 * message.length ≤ ps.length ∧ ps.length ≤ 34 * message.length := by
  induction message generalizing ps with
  | nil => rw [show ps = [] from h]; exact ⟨le_rfl, le_rfl⟩
  | cons b message ih =>
    obtain ⟨x, y, bits, ds, rfl, -, -, hbits, hds⟩ := h
    have hlen := length_of_pulsesCarry hbits
    have height : (byteBits b).length = 8 := by rw [byteBits, List.length_map, List.length_range]
    have := ih hds
    simp only [List.length_cons, List.length_append]; omega

/-- Settles O45: the pulses are the message's codes one after another, and each code has its effect. -/
theorem tapeMessageDecodes : Obligations.TapeMessageDecodes := by
  intro s message pulses hf hc hst hring h t
  have ht : t = onTape (message.foldl receiveByte) s := feed_message hf hc hring hst h
  rw [ht]
  exact ⟨hf, state_receive message s.tape hst, (ring_receive message s.tape).trans hring,
    decoded_receive message s.tape, fun b => accumulator_receive message s.tape, rfl, length_of_pulsesCarryBytes h⟩

end Sys2Proof.Machine
end

section
/-! PROOFS of the family `45_system_tick`, the run and the framebuffer (45_system_tick R316 to R322). A run repeats one
iteration until the stop flag is set; a tick moves the count by one if it completes, and touches neither the stop flag nor
the hook nor the host's coming turns. -/
namespace Sys2Proof.Machine

/-- Settles O53. -/
theorem framebufferExport : Obligations.FramebufferExport := fun _ =>
  ⟨rfl, palette, List.length_ofFn, fun k => (List.getElem?_ofFn (f := Config.palette)).trans (dif_pos k.isLt), rfl⟩

/-! ### What a tick leaves to the run -/

/-- What a run reads between its ticks: the count, whether a hook is installed, and the host's coming turns. -/
def runPart (s : State) : Nat × Bool × List Bool := (s.tickCount, s.outside.hookInstalled, s.outside.stopRequests)

theorem leaves_liveSeq {α : Type} {p : State → α} {fs : List (State → State)} (h : ∀ f ∈ fs, Leaves p f) :
    Leaves p (liveSeq fs) := fun s =>
  liveSeq_induct s (fun t => p t = p s) fs (fun f hf t _ ht => (h f hf t).trans ht) rfl

theorem liveSeq_append (fs gs : List (State → State)) (s : State) :
    liveSeq (fs ++ gs) s = liveSeq gs (liveSeq fs s) := by
  induction fs generalizing s with
  | nil => rfl
  | cons f fs ih => exact ih (live f s)

theorem runPart_dropCpuAnswer : Leaves runPart dropCpuAnswer := fun s => by
  simp only [dropCpuAnswer]; split <;> rfl

theorem runPart_serveMemory : Leaves runPart serveMemory := fun s => by
  simp only [serveMemory, dropMemAnswer]
  repeat' split
  all_goals rfl

theorem runPart_vdpTicks (n : Nat) : Leaves runPart (vdpTicks n) := by
  have hbus : Leaves runPart busStep := leaves_of_frame busStep_restore fun _ _ => rfl
  have hraster : Leaves runPart rasterStep := leaves_of_frame rasterStep_restore fun _ _ => rfl
  have hpins : Leaves runPart returnPins := fun _ => rfl
  have htick : Leaves runPart vdpTick := leaves_liveSeq (by simp [hbus, hraster, hpins])
  induction n with
  | zero => exact fun _ => rfl
  | succ n ih => exact fun s => (ih _).trans (leaves_live htick s)

theorem runPart_foldVdp : Leaves runPart foldVdp := fun s => by rw [foldVdp_eq]; rfl

theorem runPart_foldKeyboard : Leaves runPart foldKeyboard := fun s => by
  simp only [foldKeyboard, dropKeyAnswer]
  repeat' split
  all_goals rfl

theorem runPart_checkTapeRead : Leaves runPart checkTapeRead := fun s => by
  simp only [checkTapeRead, raise]
  repeat' split
  all_goals rfl

/-- The ten steps of a system tick before its commit (45_system_tick R311). -/
def stepsBeforeCommit (p : CpuPins) : List (State → State) :=
  [takeCpu p, serveMemory, decodeBus, drivePins, tickVdp, foldVdp, foldKeyboard, checkTapeRead, tickTape,
   driveInterrupts]

theorem sysTickWith_eq_commit (p : CpuPins) (s : State) :
    sysTickWith p s = live commitTick (liveSeq (stepsBeforeCommit p) s) :=
  liveSeq_append (stepsBeforeCommit p) [commitTick] s

theorem runPart_stepsBeforeCommit (p : CpuPins) : Leaves runPart (liveSeq (stepsBeforeCommit p)) := by
  refine leaves_liveSeq fun f hf => ?_
  simp only [stepsBeforeCommit, List.mem_cons, List.not_mem_nil, or_false] at hf
  rcases hf with rfl | rfl | rfl | rfl | rfl | rfl | rfl | rfl | rfl | rfl
  · exact fun _ => rfl
  · exact runPart_serveMemory
  · exact fun _ => rfl
  · exact fun _ => rfl
  · exact fun s => runPart_vdpTicks s.config.ratio s
  · exact runPart_foldVdp
  · exact runPart_foldKeyboard
  · exact runPart_checkTapeRead
  · exact fun s => leaves_of_frame (p := runPart) (fun t => tapeTick_restore t s.bus.tapeWr s.cpu.d) (fun _ _ => rfl) s
  · exact fun _ => rfl

section
variable {s : State}

/-- A tick halts before its commit, or completes and is counted; what the run reads beside the count stays. -/
theorem sysTick_runPart (hf : s.fault = none) :
    (sysTick s).fault ≠ none ∧ runPart (sysTick s) = runPart s ∨
      (sysTick s).fault = none ∧
        runPart (sysTick s) = (s.tickCount + 1, s.outside.hookInstalled, s.outside.stopRequests) := by
  have hpre : runPart (liveSeq (stepsBeforeCommit (cpuAnswer s)) (dropCpuAnswer s)) = runPart s :=
    (runPart_stepsBeforeCommit _ _).trans (runPart_dropCpuAnswer s)
  rw [sysTick, live_of_running s _ hf, sysTickWith_eq_commit]
  generalize liveSeq (stepsBeforeCommit (cpuAnswer s)) (dropCpuAnswer s) = u at hpre ⊢
  cases hu : u.fault with
  | some e => rw [live_of_halted u _ e hu]; exact .inl ⟨by simp [hu], hpre⟩
  | none =>
    rw [live_of_running u _ hu]
    exact .inr ⟨hu, congrArg (fun part => (part.1 + 1, part.2)) hpre⟩

theorem sysTick_tickCount (h : (sysTick s).fault = none) : (sysTick s).tickCount = s.tickCount + 1 := by
  cases hf : s.fault with
  | some e => rw [sysTick_halted hf, hf] at h; cases h
  | none =>
    rcases sysTick_runPart hf with ⟨hhalt, -⟩ | ⟨-, hpart⟩
    · exact absurd h hhalt
    · exact congrArg Prod.fst hpart

theorem sysTick_tickCount_le : (sysTick s).tickCount ≤ s.tickCount + 1 := by
  cases hf : s.fault with
  | some e => rw [sysTick_halted hf]; exact Nat.le_succ _
  | none =>
    rcases sysTick_runPart hf with ⟨-, hpart⟩ | ⟨-, hpart⟩
    · exact (congrArg Prod.fst hpart :).le.trans (Nat.le_succ _)
    · exact (congrArg Prod.fst hpart :).le

/-- A tick leaves the hook and the host's turns. -/
theorem sysTick_turns : (sysTick s).outside.hookInstalled = s.outside.hookInstalled ∧
    (sysTick s).outside.stopRequests = s.outside.stopRequests := by
  have hturns : (runPart (sysTick s)).2 = (runPart s).2 := by
    cases hf : s.fault with
    | some e => rw [sysTick_halted hf]
    | none => rcases sysTick_runPart hf with ⟨-, hpart⟩ | ⟨-, hpart⟩ <;> exact (congrArg Prod.snd hpart :)
  exact ⟨congrArg Prod.fst hturns, congrArg Prod.snd hturns⟩

end

theorem fixedParts_dropCpuAnswer (s : State) : fixedParts (dropCpuAnswer s) = fixedParts s := by
  simp only [dropCpuAnswer]; split <;> rfl

theorem fixedParts_sysTick (s : State) : fixedParts (sysTick s) = fixedParts s :=
  fixedParts_live s _ fun t => (fixedParts_sysTickWith (dropCpuAnswer t) _).trans (fixedParts_dropCpuAnswer t)

/-! ### One iteration -/

/-- One iteration of a run: a tick, the hook, the host's turn (45_system_tick R316, R317, R321). -/
def iteration (s : State) : State := hostTurn (askHook (sysTick s))

/-- The hook and the host change the stop flag and the outside world only. -/
theorem iteration_frame (s : State) :
    { iteration s with stopFlag := (sysTick s).stopFlag, outside := (sysTick s).outside } = sysTick s :=
  askHook_frame (sysTick s)

section
variable {s : State}

theorem iteration_fault : (iteration s).fault = (sysTick s).fault := (congrArg State.fault (iteration_frame s) :)

theorem iteration_tickCount : (iteration s).tickCount = (sysTick s).tickCount :=
  (congrArg State.tickCount (iteration_frame s) :)

theorem iteration_config : (iteration s).config = s.config :=
  (congrArg State.config (iteration_frame s) :).trans (congrArg Prod.fst (fixedParts_sysTick s))

/-- A halted block stays halted, and its count stays. -/
theorem iteration_halted {e : Fault} (h : s.fault = some e) :
    (iteration s).fault = some e ∧ (iteration s).tickCount = s.tickCount := by
  rw [iteration_fault, iteration_tickCount, sysTick_halted h]
  exact ⟨h, rfl⟩

/-- Nothing will ask the run to stop: no hook, no request. -/
def Undisturbed (s : State) : Prop := s.outside.hookInstalled = false ∧ true ∉ s.outside.stopRequests

/-- Then an iteration leaves the stop flag, and nothing will ask the run to stop after it. -/
theorem iteration_undisturbed (h : Undisturbed s) :
    (iteration s).stopFlag = s.stopFlag ∧ Undisturbed (iteration s) := by
  obtain ⟨hhook, hrequests⟩ := h
  obtain ⟨hhook', hrequests'⟩ := sysTick_turns (s := s)
  have hask : askHook (sysTick s) = sysTick s := by rw [askHook, hhook', hhook]; rfl
  have hflag : (sysTick s).stopFlag = s.stopFlag := congrArg (fun part => part.2.2.1) (fixedParts_sysTick s)
  have hhead : s.outside.stopRequests.headD false = false := by
    cases hturns : s.outside.stopRequests with
    | nil => rfl
    | cons stop rest =>
      rw [hturns] at hrequests
      exact Bool.eq_false_iff.2 fun htrue : stop = true => hrequests (htrue ▸ List.mem_cons_self)
  rw [iteration, hask, Undisturbed, hostTurn_stopFlag, hostTurn_outside, hflag, hrequests', hhead, Bool.or_false]
  exact ⟨rfl, hhook'.trans hhook, fun hmem => hrequests (List.mem_of_mem_tail hmem)⟩

end

/-! ### The loop -/

section
variable {s : State} (n : Nat)

theorem runLoop_stopped (h : s.stopFlag = true) : runLoop n s = s := by
  cases n with
  | zero => rfl
  | succ n => exact if_pos h

/-- The loop is some number of iterations, each begun with the stop flag clear, until the flag is set or `n` are
done. -/
theorem runLoop_eq_iterate (s : State) :
    ∃ k ≤ n, (∀ j < k, (iteration^[j] s).stopFlag = false) ∧ (k = n ∨ (iteration^[k] s).stopFlag = true) ∧
      runLoop n s = iteration^[k] s := by
  induction n generalizing s with
  | zero => exact ⟨0, le_rfl, fun _ hj => absurd hj (Nat.not_lt_zero _), .inl rfl, rfl⟩
  | succ n ih =>
    cases hstop : s.stopFlag with
    | true => exact ⟨0, Nat.zero_le _, fun _ hj => absurd hj (Nat.not_lt_zero _), .inr hstop, runLoop_stopped _ hstop⟩
    | false =>
      obtain ⟨k, hk, hclear, hend, hloop⟩ := ih (iteration s)
      refine ⟨k + 1, Nat.succ_le_succ hk, fun j hj => ?_, hend.imp (congrArg (· + 1)) id, ?_⟩
      · cases j with
        | zero => exact hstop
        | succ j => exact hclear j (Nat.lt_of_succ_lt_succ hj)
      · rw [runLoop, if_neg (Bool.eq_false_iff.1 hstop)]
        exact hloop

theorem iterate_tickCount_le : (iteration^[n] s).tickCount ≤ s.tickCount + n := by
  induction n with
  | zero => exact le_rfl
  | succ n ih =>
    rw [Function.iterate_succ_apply', iteration_tickCount]
    exact sysTick_tickCount_le.trans (Nat.succ_le_succ ih)

theorem iterate_config : (iteration^[n] s).config = s.config := by
  induction n with
  | zero => rfl
  | succ n ih => rw [Function.iterate_succ_apply', iteration_config, ih]

/-- In a run that ends without a fault every iteration completed its tick. -/
theorem iterate_tickCount (h : (iteration^[n] s).fault = none) : (iteration^[n] s).tickCount = s.tickCount + n := by
  induction n with
  | zero => rfl
  | succ n ih =>
    rw [Function.iterate_succ_apply'] at h ⊢
    have hbefore : (iteration^[n] s).fault = none := by
      by_contra hhalt
      obtain ⟨e, he⟩ := Option.ne_none_iff_exists'.1 hhalt
      rw [(iteration_halted he).1] at h
      cases h
    rw [iteration_tickCount, sysTick_tickCount (iteration_fault.symm.trans h), ih hbefore, Nat.add_assoc]

theorem iterate_halted {e : Fault} (h : s.fault = some e) :
    (iteration^[n] s).fault = some e ∧ (iteration^[n] s).tickCount = s.tickCount := by
  induction n with
  | zero => exact ⟨h, rfl⟩
  | succ n ih =>
    rw [Function.iterate_succ_apply']
    obtain ⟨hfault, hcount⟩ := iteration_halted ih.1
    exact ⟨hfault, hcount.trans ih.2⟩

theorem iterate_undisturbed (h : Undisturbed s) :
    (iteration^[n] s).stopFlag = s.stopFlag ∧ Undisturbed (iteration^[n] s) := by
  induction n with
  | zero => exact ⟨rfl, h⟩
  | succ n ih =>
    rw [Function.iterate_succ_apply']
    obtain ⟨hflag, hundisturbed⟩ := iteration_undisturbed ih.2
    exact ⟨hflag.trans ih.1, hundisturbed⟩

end

/-- The state in which the loop of a run begins. -/
def started (s : State) : State := { s with tickCount := 0 }

theorem run_eq {s : State} {n k : Nat} (h : runLoop n (started s) = iteration^[k] (started s)) :
    run n s = setResult (.ticks (iteration^[k] (started s)).tickCount) (iteration^[k] (started s)) := by
  rw [← h]; rfl

/-- Settles O51: the run is its iterations, of which each moves the count by at most one. -/
theorem runReturnsCompletedTicks : Obligations.RunReturnsCompletedTicks := by
  intro s n asked turned
  obtain ⟨k, hk, hclear, hend, hloop⟩ := runLoop_eq_iterate n (started s)
  have hrun := run_eq hloop
  have hflag (hhook : s.outside.hookInstalled = false) (hrequests : true ∉ s.outside.stopRequests) :
      (iteration^[k] (started s)).stopFlag = s.stopFlag :=
    (iterate_undisturbed (s := started s) k ⟨hhook, hrequests⟩).1
  refine ⟨run n s, rfl, rfl, ?_, ?_, ⟨k, fun j => iteration^[j] (started s), hk, rfl, fun j hj =>
    ⟨hclear j hj, _, rfl, Function.iterate_succ_apply' iteration j _⟩, hend, hrun⟩, fun hstop => ?_,
    fun hstop hhook hrequests hfault => ?_, fun hhalt => ?_, fun hhook hrequests => ?_⟩
  · have hcount : (iteration^[k] (started s)).tickCount ≤ 0 + k := iterate_tickCount_le k
    rw [hrun, setResult_tickCount]; omega
  · rw [hrun]; exact iterate_config (s := started s) k
  · have hstopped : runLoop n (started s) = iteration^[0] (started s) := runLoop_stopped n hstop
    exact run_eq hstopped
  · rw [hrun] at hfault ⊢
    have hall : k = n := hend.resolve_right (by rw [hflag hhook hrequests, hstop]; exact Bool.false_ne_true)
    have hcount : (iteration^[k] (started s)).tickCount = 0 + k := iterate_tickCount k hfault
    exact hcount.trans (by rw [hall, Nat.zero_add])
  · obtain ⟨e, he⟩ := Option.ne_none_iff_exists'.1 hhalt
    obtain ⟨-, hcount⟩ := iterate_halted (s := started s) k he
    rw [hrun]; exact hcount
  · rw [hrun]; exact hflag hhook hrequests

end Sys2Proof.Machine
end

section
/-! PROOFS of the family `45_system_tick`, the lines of a tick (45_system_tick R311, 41_vdp_bus_interface R160, R161). The
pins of the VDP, the decoder's lines, the CPU's record and the edge detectors carry a tick; the operations that a tick
is made of neither read nor write them. So a tick is its operations on the rest of the state, and the lines beside it. -/
namespace Sys2Proof.Machine

/-! ### The lines -/

/-- What carries a tick between the parts of the block. -/
structure Lines where
  pins : VdpPins
  bus : BusLines
  cpu : CpuPins
  prevAs : Level
  prevDs : Level
  prevRw : Level

/-- The state with other lines. -/
def putLines (l : Lines) (s : State) : State :=
  { s with pins := l.pins, bus := l.bus, cpu := l.cpu, prevAs := l.prevAs, prevDs := l.prevDs, prevRw := l.prevRw }

@[simp] theorem putLines_fault (l : Lines) (s : State) : (putLines l s).fault = s.fault := rfl

/-- Sub-steps that do after a change what others do before it, one by one, do so in sequence. -/
theorem liveSeq_forall₂ {g : State → State} {fs fs' : List (State → State)} (hg : Leaves State.fault g)
    (h : List.Forall₂ (fun f f' => ∀ s, f (g s) = g (f' s)) fs fs') (s : State) :
    liveSeq fs (g s) = g (liveSeq fs' s) := by
  induction h generalizing s with
  | nil => rfl
  | @cons f f' fs fs' hf _ ih =>
    have hlive : live f (g s) = g (live f' s) := by
      cases hs : s.fault with
      | none => rw [live_of_running s f' hs, live_of_running (g s) f ((hg s).trans hs), hf]
      | some e => rw [live_of_halted s f' e hs, live_of_halted (g s) f e ((hg s).trans hs)]
    rw [liveSeq_cons, hlive, liveSeq_cons, ih]

theorem commutes_liveSeq {g : State → State} {fs : List (State → State)} (hg : Leaves State.fault g)
    (hfs : ∀ f ∈ fs, Commutes g f) : Commutes g (liveSeq fs) :=
  liveSeq_forall₂ hg (List.forall₂_same.2 hfs)

section
variable (l : Lines)

theorem fault_putLines : Leaves State.fault (putLines l) := fun _ => rfl

theorem raise_putLines (e : Fault) : Commutes (putLines l) (raise e) := fun s => by
  simp only [raise, putLines_fault]
  cases s.fault <;> rfl

/-! ### The edges -/

theorem asFall_putLines (d : Byte) (ds : Level) : Commutes (putLines l) (asFall d ds) := fun _ => rfl

theorem dsFall_putLines (rw : Level) : Commutes (putLines l) (dsFall rw) := fun s => by
  rw [dsFall_eq rw s, apply_ite (putLines l)]
  exact dsFall_eq rw (putLines l s)

theorem rwFall_putLines (d : Byte) : Commutes (putLines l) (rwFall d) := fun s =>
  commutes_onlyIf (g := putLines l) (f := setReg (latchedReg s) d) (s.addrLatch.getLsbD 5) (fun _ => rfl) s

theorem rwRise_putLines : Commutes (putLines l) rwRise := fun s =>
  commutes_onlyIf (g := putLines l) s.xqLatch (commutes_dispatch (getReg s 0) (fun _ _ => rfl) fun _ => rfl) s

/-! ### The raster -/

theorem rowReload_putLines (k : Nat) : Commutes (putLines l) (rowReload k) := fun s => by
  have hmode : (putLines l s).cfg = s.cfg := rfl
  simp only [rowReload, hmode]
  split
  · rfl
  · exact raise_putLines l _ s

theorem reloadStep_putLines (k sl : Nat) : Commutes (putLines l) (reloadStep k sl) := fun s => by
  have hquad : Commutes (putLines l) quadrantPass := fun _ => rfl
  exact commutes_onlyIf (g := putLines l) (sl == 0 && s.tickInLine == 0)
    (commutes_liveSeq (fault_putLines l) (by simp [rowReload_putLines, hquad])) s

theorem writePixels_putLines (x al n : Nat) (colour : Nat → BitVec 3) :
    Commutes (putLines l) (writePixels x al colour n) := fun s => by
  induction n with
  | zero => rfl
  | succ n ih => rw [writePixels, ih]; rfl

theorem cellStep_putLines (sl al : Nat) : Commutes (putLines l) (cellStep sl al) := fun s => by
  have hposition : startingCell (putLines l s).config (putLines l s).tickInLine =
      startingCell s.config s.tickInLine := rfl
  simp only [cellStep, hposition]
  split
  · next c _ => exact writePixels_putLines l (c * 8) al 8 (pixelColour s c sl) s
  · rfl

theorem rasterAct_putLines : Commutes (putLines l) rasterAct := fun s => by
  have hline : activeLine (putLines l s) = activeLine s := rfl
  have hservice : Commutes (putLines l) serviceRow := fun _ => rfl
  simp only [rasterAct, hline]
  split
  · rfl
  · next al _ =>
    split
    · exact commutes_onlyIf (g := putLines l) (al % 10 == 0 && s.tickInLine == 0) hservice s
    · exact commutes_liveSeq (fault_putLines l) (by simp [reloadStep_putLines, cellStep_putLines]) s

theorem advance_putLines : Commutes (putLines l) advance := fun s => by
  simp only [advance]
  rw [apply_ite (putLines l)]
  rfl

/-- A raster tick is the same whatever the lines show (43_vdp_raster R220). -/
theorem rasterStep_putLines : Commutes (putLines l) rasterStep := fun s => by
  have hsync : Commutes (putLines l) syncOut := fun _ => rfl
  exact commutes_liveSeq (fault_putLines l) (by simp [rasterAct_putLines, hsync, advance_putLines]) s

/-! ### The codec -/

theorem runPulse_putLines : Commutes (putLines l) runPulse := fun s => by
  have hsame : selectPulse (putLines l s).config (putLines l s).tape = selectPulse s.config s.tape := rfl
  simp only [runPulse, hsame]
  cases selectPulse s.config s.tape with
  | notimpl => exact raise_putLines l _ s
  | _ => rfl

/-- A codec tick is the same whatever the lines show (44_tape_codec R280). -/
theorem tapeTick_putLines (w : Level) (d : Byte) : Commutes (putLines l) (tapeTick w d) := fun s => by
  have hrestart : Commutes (putLines l) restartMeasure := fun _ => rfl
  have htoggle (e : Nat) : Commutes (putLines l) (toggle e) := fun s => by
    have hpush : Commutes (putLines l) (onTape (push s.config e)) := fun _ => rfl
    exact (congrArg runPulse (commutes_onlyIf _ hpush s)).trans (runPulse_putLines l _)
  exact commutes_onlyIf (g := putLines l) _
    (commutes_liveSeq (fault_putLines l) (by simp [htoggle, hrestart])) (countAndLatch w d s)

end

/-! ### The VDP ticks of a system tick -/

/-- The edges of the lines, in the order of R161. -/
def edgeSteps (l : Lines) : List (State → State) :=
  [onlyIf (l.prevAs && !l.pins.as) (asFall l.pins.ad l.pins.ds), onlyIf (l.prevDs && !l.pins.ds) (dsFall l.pins.rw),
   onlyIf (l.prevRw && !l.pins.rw) (rwFall l.pins.ad), onlyIf (!l.prevRw && l.pins.rw) rwRise]

/-- The edge tests of a bus step, each of which reads the lines it finds. -/
def edgeTests : List (State → State) :=
  [fun s => onlyIf (s.prevAs && !s.pins.as) (asFall s.pins.ad s.pins.ds) s,
   fun s => onlyIf (s.prevDs && !s.pins.ds) (dsFall s.pins.rw) s,
   fun s => onlyIf (s.prevRw && !s.pins.rw) (rwFall s.pins.ad) s,
   fun s => onlyIf (!s.prevRw && s.pins.rw) rwRise s]

theorem busStep_eq_edgeTests (s : State) : busStep s = live latchEdges (liveSeq edgeTests s) := rfl

/-- With the lines `l` each edge test is the edge of `l`. -/
theorem edgeTests_forall₂ (l : Lines) :
    List.Forall₂ (fun f f' => ∀ s, f (putLines l s) = putLines l (f' s)) edgeTests (edgeSteps l) :=
  .cons (commutes_onlyIf (l.prevAs && !l.pins.as) (asFall_putLines l l.pins.ad l.pins.ds)) <|
  .cons (commutes_onlyIf (l.prevDs && !l.pins.ds) (dsFall_putLines l l.pins.rw)) <|
  .cons (commutes_onlyIf (l.prevRw && !l.pins.rw) (rwFall_putLines l l.pins.ad)) <|
  .cons (commutes_onlyIf (!l.prevRw && l.pins.rw) (rwRise_putLines l)) .nil

/-- The detectors have seen the levels on the pins. -/
def latchedLines (l : Lines) : Lines := { l with prevAs := l.pins.as, prevDs := l.pins.ds, prevRw := l.pins.rw }

/-- The pins that the VDP in the state `v` returns (41_vdp_bus_interface R168). -/
def returned (v : State) (l : Lines) : Lines :=
  { l with pins := { l.pins with hs := v.hs, vs := v.vs, am := 0, ad := if v.adDriven then v.adOut else l.pins.ad } }

section
variable {l : Lines} {s u : State}

/-- A bus step is the edges of the lines, and then the detectors follow (R161). -/
theorem busStep_putLines (hu : liveSeq (edgeSteps l) s = u) (hf : u.fault = none) :
    busStep (putLines l s) = putLines (latchedLines l) u := by
  rw [busStep_eq_edgeTests, liveSeq_forall₂ (fault_putLines l) (edgeTests_forall₂ l), hu,
    live_of_running (putLines l u) _ hf]
  rfl

/-- A VDP tick without an edge is a raster tick. -/
theorem vdpTick_putLines (hl : latchedLines l = l) (hf : s.fault = none) (hv : (rasterStep s).fault = none) :
    vdpTick (putLines l s) = putLines (returned (rasterStep s) l) (rasterStep s) := by
  have hquiet : busStep (putLines l s) = putLines l s :=
    busStep_quiet _ (congrArg Lines.prevAs hl) (congrArg Lines.prevDs hl) (congrArg Lines.prevRw hl)
  have hrunning : (putLines l (rasterStep s)).fault = none := hv
  rw [vdpTick, liveSeq_running (s := putLines l s) hf, hquiet, liveSeq_running (s := putLines l s) hf,
    rasterStep_putLines, liveSeq_running hrunning, liveSeq_nil]
  rfl

/-- What is driven stands on the pins from tick to tick. -/
theorem returned_returned {v y : State} (hv : restoreRaster y v = y) : returned v (returned y l) = returned v l := by
  have hdriven : v.adDriven = y.adDriven := (congrArg State.adDriven hv :)
  have hout : v.adOut = y.adOut := (congrArg State.adOut hv :)
  simp only [returned, hdriven, hout]
  split <;> rfl

theorem vdpTicks_eq_iterate (n : Nat) (s : State) : vdpTicks n s = (live vdpTick)^[n] s := by
  induction n generalizing s with
  | zero => rfl
  | succ n ih => exact ih _

/-- A fault, once raised, stays. -/
theorem live_running {f : State → State} (h : (live f s).fault = none) : s.fault = none := by
  cases hf : s.fault with
  | none => rfl
  | some e => rw [live_of_halted s f e hf, hf] at h; cases h

/-- VDP ticks without an edge are raster ticks. -/
theorem vdpTicks_putLines (hl : latchedLines l = l) {n : Nat} (hn : 1 ≤ n)
    (hv : ((live rasterStep)^[n] s).fault = none) :
    vdpTicks n (putLines l s) = putLines (returned ((live rasterStep)^[n] s) l) ((live rasterStep)^[n] s) := by
  rw [vdpTicks_eq_iterate]
  induction n, hn using Nat.le_induction with
  | base =>
    have hf : s.fault = none := live_running hv
    have hlive : (live rasterStep)^[1] s = rasterStep s := live_of_running s _ hf
    rw [hlive] at hv ⊢
    exact (live_of_running (putLines l s) _ hf).trans (vdpTick_putLines hl hf hv)
  | succ n hn ih =>
    rw [Function.iterate_succ_apply'] at hv ⊢
    rw [Function.iterate_succ_apply']
    have hy := live_running hv
    rw [ih hy]
    generalize (live rasterStep)^[n] s = y at hv hy ⊢
    rw [live_of_running y _ hy] at hv ⊢
    have hl' : latchedLines (returned y l) = returned y l :=
      congrArg (fun m : Lines => { returned y l with prevAs := m.prevAs, prevDs := m.prevDs, prevRw := m.prevRw }) hl
    rw [live_of_running (putLines _ y) _ hy, vdpTick_putLines hl' hy hv, returned_returned (rasterStep_restore y)]

/-- The VDP ticks of a system tick are the edges of its lines and then raster ticks (R160, R161). -/
theorem tickVdp_putLines {n : Nat} (hn : 1 ≤ n) (hf : s.fault = none) (hu : liveSeq (edgeSteps l) s = u)
    (huf : u.fault = none) (hv : ((live rasterStep)^[n] u).fault = none) :
    vdpTicks n (putLines l s) =
      putLines (returned ((live rasterStep)^[n] u) (latchedLines l)) ((live rasterStep)^[n] u) := by
  have hquiet : busStep (putLines (latchedLines l) u) = putLines (latchedLines l) u := busStep_quiet _ rfl rfl rfl
  have hfirst : vdpTick (putLines l s) = vdpTick (putLines (latchedLines l) u) := by
    have hbus := (busStep_putLines hu huf).trans hquiet.symm
    rw [vdpTick, vdpTick, liveSeq_running (s := putLines l s) hf,
      liveSeq_running (s := putLines (latchedLines l) u) huf, hbus]
  rw [← vdpTicks_putLines rfl hn hv]
  obtain ⟨m, rfl⟩ := Nat.exists_eq_add_of_le' hn
  rw [vdpTicks, vdpTicks, live_of_running (putLines l s) _ hf,
    live_of_running (putLines (latchedLines l) u) _ huf, hfirst]

end

end Sys2Proof.Machine
end

section
/-! PROOFS of the family `45_system_tick`, the whole tick (45_system_tick R311). From its VDP ticks on a system tick is a
state beside its lines: the edges, the raster ticks, the two answers, the codec tick and the commit. In a tick in which
no command runs the edges are strobes, and what they leave is said field by field. -/
namespace Sys2Proof.Machine

/-! ### The start of a tick -/

/-- The byte on the bus when a tick begins: the router's answer to a memory read, else the CPU's own (R313). -/
def cpuByte (s : State) : Byte :=
  if (cpuAnswer s).mreq && (cpuAnswer s).rd then memAnswer (dropCpuAnswer s) (cpuAnswer s).a else (cpuAnswer s).d

/-- The decoder's lines in the tick. -/
def tickBus (s : State) : BusLines := busDecode s.config (cpuAnswer s)

/-- The block after the CPU and the router have answered. -/
def served (s : State) : State :=
  if (cpuAnswer s).mreq && (cpuAnswer s).rd then dropMemAnswer (dropCpuAnswer s) else dropCpuAnswer s

/-- The block when the VDP ticks of a tick begin. -/
def tickStart (s : State) : State := undriven (served s)

/-- The lines when the VDP ticks of a tick begin (R311, steps 1 to 4). -/
def startLines (s : State) : Lines :=
  { pins :=
      { ad := cpuByte s, as := (tickBus s).as, ds := (tickBus s).ds, rw := (tickBus s).rw, hs := s.hs, vs := s.vs
        am := 0 }
    bus := tickBus s, cpu := { cpuAnswer s with d := cpuByte s }
    prevAs := s.prevAs, prevDs := s.prevDs, prevRw := s.prevRw }

theorem dropCpuAnswer_eq (s : State) : ∃ o, dropCpuAnswer s = { s with outside := o } := by
  simp only [dropCpuAnswer]; split <;> exact ⟨_, rfl⟩

theorem dropMemAnswer_eq (s : State) : ∃ o, dropMemAnswer s = { s with outside := o } := by
  simp only [dropMemAnswer]; split <;> exact ⟨_, rfl⟩

theorem dropKeyAnswer_eq (s : State) : ∃ o, dropKeyAnswer s = { s with outside := o } := by
  simp only [dropKeyAnswer]; split <;> exact ⟨_, rfl⟩

theorem served_eq (s : State) : ∃ o, served s = { s with outside := o } := by
  obtain ⟨o, ho⟩ := dropCpuAnswer_eq s
  obtain ⟨o', ho'⟩ := dropMemAnswer_eq (dropCpuAnswer s)
  rw [served]
  split
  · exact ⟨o', by rw [ho', ho]⟩
  · exact ⟨o, ho⟩

/-- What a tick changes before its VDP ticks is the outside world and the drive of `AD`. -/
theorem tickStart_frame (s : State) :
    { tickStart s with outside := s.outside, adDriven := s.adDriven } = s := by
  obtain ⟨o, ho⟩ := served_eq s
  rw [tickStart, ho]
  rfl

theorem tickStart_fault (s : State) : (tickStart s).fault = s.fault := (congrArg State.fault (tickStart_frame s) :)

theorem tickStart_config (s : State) : (tickStart s).config = s.config := (congrArg State.config (tickStart_frame s) :)

/-- A memory read is answered by the router (R311, step 2). -/
theorem serveMemory_takeCpu (p : CpuPins) (t : State) :
    serveMemory (takeCpu p t) =
      takeCpu { p with d := if p.mreq && p.rd then memAnswer t p.a else p.d }
        (if p.mreq && p.rd then dropMemAnswer t else t) := by
  have hcpu : (takeCpu p t).cpu = p := rfl
  have hdrop : dropMemAnswer (takeCpu p t) = takeCpu p (dropMemAnswer t) := by
    simp only [dropMemAnswer, takeCpu]; split <;> rfl
  simp only [serveMemory, hcpu, hdrop]
  cases p.mreq && p.rd <;> rfl

/-- The steps of a tick before its VDP ticks (R311, steps 1 to 4). -/
theorem tickStart_steps (s : State) :
    drivePins (decodeBus (serveMemory (takeCpu (cpuAnswer s) (dropCpuAnswer s)))) =
      putLines (startLines s) (tickStart s) := by
  obtain ⟨o, ho⟩ := served_eq s
  rw [serveMemory_takeCpu, ← served, tickStart, ho]
  rfl

/-- A tick from its VDP ticks on (R311, steps 5 to 11). -/
theorem sysTick_eq {s : State} (hf : s.fault = none) :
    sysTick s =
      liveSeq [tickVdp, foldVdp, foldKeyboard, checkTapeRead, tickTape, driveInterrupts, commitTick]
        (putLines (startLines s) (tickStart s)) := by
  have hasked : (takeCpu (cpuAnswer s) (dropCpuAnswer s)).fault = none := by
    obtain ⟨o, ho⟩ := dropCpuAnswer_eq s
    rw [ho]; exact hf
  have hserved : (serveMemory (takeCpu (cpuAnswer s) (dropCpuAnswer s))).fault = none :=
    (congrArg State.fault (tickStart_steps s) :).trans ((tickStart_fault s).trans hf)
  rw [sysTick, live_of_running s _ hf, sysTickWith, liveSeq_running (s := dropCpuAnswer s) hasked,
    liveSeq_running hasked, liveSeq_running hserved, liveSeq_running (s := decodeBus _) hserved, tickStart_steps]

/-! ### After the VDP ticks -/

/-- The byte a tick leaves in the CPU's record, after VDP ticks that end in `v` (R311, steps 6 and 7). -/
def answerByte (l : Lines) (v : State) : Byte :=
  if !l.bus.kbd then keyAnswer v l.cpu.a else if v.adDriven then v.adOut else l.cpu.d

/-- The lines after the two answers. -/
def answeredLines (l : Lines) (v : State) : Lines := { returned v l with cpu := { l.cpu with d := answerByte l v } }

/-- The keyboard's answer, if it was asked for, is used up. -/
def keyed (l : Lines) (v : State) : State := if !l.bus.kbd then dropKeyAnswer v else v

/-- The codec tick of a system tick. -/
def codecTicked (l : Lines) (v : State) : State := tapeTick l.bus.tapeWr (answerByte l v) (keyed l v)

/-- The record that a tick hands to the CPU (R311, step 10, R340). -/
def handedRecord (l : Lines) (v w : State) : CpuPins :=
  { l.cpu with d := answerByte l v, int := interruptLevel w.config v.vs, nmi := false }

/-- The commit of a tick (R311, step 11). -/
def committed (c : CpuPins) (w : State) : State := { w with cpuPins := c, tickCount := w.tickCount + 1 }

theorem keyed_eq (l : Lines) (v : State) : ∃ o, keyed l v = { v with outside := o } := by
  rw [keyed]
  split
  · exact dropKeyAnswer_eq v
  · exact ⟨v.outside, rfl⟩

theorem keyed_fault (l : Lines) (v : State) : (keyed l v).fault = v.fault := by
  obtain ⟨o, ho⟩ := keyed_eq l v
  rw [ho]

/-- The codec tick and the keyboard change the tape, the log, the fault mark and the outside world only. -/
theorem codecTicked_frame (l : Lines) (v : State) :
    { codecTicked l v with tape := v.tape, log := v.log, fault := v.fault, outside := v.outside } = v := by
  obtain ⟨o, ho⟩ := keyed_eq l v
  have htape := tapeTick_restore (keyed l v) l.bus.tapeWr (answerByte l v)
  rw [← codecTicked, ho] at htape
  exact congrArg (fun t : State => { t with outside := v.outside }) htape

theorem foldVdp_putLines (l : Lines) (v : State) :
    foldVdp (putLines (returned v l) v) =
      putLines { returned v l with cpu := { l.cpu with d := if v.adDriven then v.adOut else l.cpu.d } } v := by
  have hbyte : (if v.adDriven then (returned v l).pins.ad else l.cpu.d) =
      if v.adDriven then v.adOut else l.cpu.d := by
    split
    · next hdriven => exact if_pos hdriven
    · rfl
  rw [foldVdp_eq, ← hbyte]
  rfl

theorem foldKeyboard_putLines (l : Lines) (v : State) :
    foldKeyboard (putLines l v) =
      putLines { l with cpu := { l.cpu with d := if !l.bus.kbd then keyAnswer v l.cpu.a else l.cpu.d } }
        (keyed l v) := by
  have hbus : (putLines l v).bus = l.bus := rfl
  have hdrop : dropKeyAnswer (putLines l v) = putLines l (dropKeyAnswer v) := by
    simp only [dropKeyAnswer, putLines]; split <;> rfl
  rw [foldKeyboard, hbus, hdrop, keyed]
  cases l.bus.kbd <;> rfl

/-- The two answers (R311, steps 6 and 7). -/
theorem foldAnswers (l : Lines) (v : State) :
    foldKeyboard (foldVdp (putLines (returned v l) v)) = putLines (answeredLines l v) (keyed l v) := by
  rw [foldVdp_putLines, foldKeyboard_putLines]
  rfl

/-- A tick that does not select the tape read path and whose codec tick does not halt ends in its commit. -/
theorem afterVdpTicks {l : Lines} {v : State} (hv : v.fault = none) (hrd : l.bus.tapeRd = true)
    (hw : (codecTicked l v).fault = none) :
    liveSeq [foldVdp, foldKeyboard, checkTapeRead, tickTape, driveInterrupts, commitTick] (putLines (returned v l) v) =
      putLines { returned v l with cpu := handedRecord l v (codecTicked l v) }
        (committed (handedRecord l v (codecTicked l v)) (codecTicked l v)) := by
  have hfold : (foldVdp (putLines (returned v l) v)).fault = none := by rw [foldVdp_eq]; exact hv
  have hkeyed : (keyed l v).fault = none := (keyed_fault l v).trans hv
  have hread : checkTapeRead (putLines (answeredLines l v) (keyed l v)) = putLines (answeredLines l v) (keyed l v) :=
    checkTapeRead_high hrd
  have htape : tickTape (putLines (answeredLines l v) (keyed l v)) =
      putLines (answeredLines l v) (codecTicked l v) := tapeTick_putLines _ l.bus.tapeWr (answerByte l v) (keyed l v)
  have hints : (driveInterrupts (putLines (answeredLines l v) (codecTicked l v))).fault = none := hw
  rw [liveSeq_running (s := putLines _ v) hv, liveSeq_running hfold, foldAnswers,
    liveSeq_running (s := putLines _ (keyed l v)) hkeyed, hread,
    liveSeq_running (s := putLines _ (keyed l v)) hkeyed, htape,
    liveSeq_running (s := putLines _ (codecTicked l v)) hw, liveSeq_running hints, liveSeq_nil]
  rfl

/-- A tick whose VDP ticks end in `v` with the lines `l`, and which nothing halts after them. -/
theorem sysTick_completes {s v : State} {l : Lines} (hf : s.fault = none)
    (hvdp : tickVdp (putLines (startLines s) (tickStart s)) = putLines (returned v l) v) (hv : v.fault = none)
    (hrd : l.bus.tapeRd = true) (hw : (codecTicked l v).fault = none) :
    sysTick s =
      { codecTicked l v with
          prevAs := l.prevAs, prevDs := l.prevDs, prevRw := l.prevRw, tickCount := s.tickCount + 1
          cpuPins :=
            { l.cpu with d := answerByte l v, int := s.config.intFromVs && !(codecTicked l v).vs, nmi := false }
          pins := (sysTick s).pins, bus := (sysTick s).bus, cpu := (sysTick s).cpu } := by
  have hstart : (putLines (startLines s) (tickStart s)).fault = none := (tickStart_fault s).trans hf
  have htick : sysTick s = putLines { returned v l with cpu := handedRecord l v (codecTicked l v) }
      (committed (handedRecord l v (codecTicked l v)) (codecTicked l v)) := by
    rw [sysTick_eq hf, liveSeq_running hstart, hvdp, afterVdpTicks hv hrd hw]
  have hcount : (codecTicked l v).tickCount = s.tickCount := by
    have hdone : (sysTick s).fault = none := (congrArg State.fault htick :).trans hw
    exact Nat.succ.inj ((congrArg State.tickCount htick :).symm.trans (sysTick_tickCount hdone))
  have hconfig : (codecTicked l v).config = s.config :=
    (congrArg State.config htick :).symm.trans (congrArg Prod.fst (fixedParts_sysTick s))
  have hvs : (codecTicked l v).vs = v.vs := (congrArg State.vs (codecTicked_frame l v) :)
  rw [htick, ← hcount, ← hconfig, hvs]
  rfl

/-! ### The tick as its operations -/

section
variable {s t u : State}

theorem runsTo_append {is js : List Instr} (h1 : runsTo is s t) (h2 : runsTo js t u) : runsTo (is ++ js) s u := by
  induction is generalizing s with
  | nil => subst h1; exact h2
  | cons i is ih =>
    obtain ⟨x, hx, hrest⟩ := h1
    exact ⟨x, hx, ih hrest⟩

/-- An operation asked for under a condition is its sub-step under the condition. -/
theorem runsTo_onlyIf {i : Instr} {f : State → State} (hi : ∀ s, exec i s = .next (live f s)) (c : Bool) (s : State) :
    runsTo (if c then [i] else []) s (live (onlyIf c f) s) := by
  cases c with
  | true => exact ⟨_, hi s, rfl⟩
  | false => rcases live_cases s (onlyIf false f) with ⟨-, he⟩ | ⟨-, he⟩ <;> exact he

/-- The edges of a tick, one operation after another. -/
theorem runsTo_edges (s x : State) :
    runsTo (edgesOf s (tickBus s) (cpuByte s)) x (liveSeq (edgeSteps (startLines s)) x) :=
  have has := runsTo_onlyIf (i := .vbAsFall (cpuByte s) (tickBus s).ds) (fun _ => rfl) (s.prevAs && !(tickBus s).as)
  have hds := runsTo_onlyIf (i := .vbDsFall (tickBus s).rw) (fun _ => rfl) (s.prevDs && !(tickBus s).ds)
  have hrw := runsTo_onlyIf (i := .vbRwFall (cpuByte s)) (fun _ => rfl) (s.prevRw && !(tickBus s).rw)
  have hrise := runsTo_onlyIf (i := .vbRwRise) (fun _ => rfl) (!s.prevRw && (tickBus s).rw)
  runsTo_append (runsTo_append (runsTo_append (has x) (hds _)) (hrw _)) (hrise _)

theorem runsTo_raTicks (n : Nat) (s : State) : runsTo (List.replicate n .raTick) s ((live rasterStep)^[n] s) := by
  induction n generalizing s with
  | zero => rfl
  | succ n ih => exact ⟨_, rfl, ih _⟩

end

/-- A codec tick as an operation, in a block that runs. -/
theorem exec_tpTick {s : State} (hf : s.fault = none) {svc : BitVec 3} {w : Level} (hsvc : svc.getLsbD 2 = w)
    (d : Byte) : exec (.tpTick svc d) s = .next (tapeTick w d s) :=
  exec_of_live hf (f := tapeTick (svc.getLsbD 2) d) rfl (by rw [hsvc])

/-- The lines after the edges of a tick. -/
def tickLines (s : State) : Lines := latchedLines (startLines s)

/-- The VDP ticks of a system tick are its edges and raster ticks, where none of them halts. -/
theorem tickVdp_isItsOperations {s u v : State} (hf : s.fault = none) (hratio : 1 ≤ s.config.ratio)
    (hu : liveSeq (edgeSteps (startLines s)) (tickStart s) = u) (huf : u.fault = none)
    (hv : (live rasterStep)^[s.config.ratio] u = v) (hvf : v.fault = none) :
    tickVdp (putLines (startLines s) (tickStart s)) = putLines (returned v (tickLines s)) v := by
  subst hv
  have hstart : (tickStart s).fault = none := (tickStart_fault s).trans hf
  have hconfig : (putLines (startLines s) (tickStart s)).config = s.config := tickStart_config s
  rw [tickVdp, hconfig]
  exact tickVdp_putLines hratio hstart hu huf hvf

end Sys2Proof.Machine
end

section
/-! PROOFS of the family `45_system_tick`, the tick in which no command runs (45_system_tick R311, R313, R314,
41_vdp_bus_interface R160, R168). Its edges are strobes, its raster ticks run to their end, and its codec tick is what
TP.TICK gives for the tape as it was; so the tick completes, and every part of its state is known. -/
namespace Sys2Proof.Machine

/-! ### The codec tick -/

section
variable {x y : State}

/-- What the codec makes of the tape depends on the tape and the configuration. -/
theorem tape_runPulse_congr (hc : x.config = y.config) (ht : x.tape = y.tape) :
    (runPulse x).tape = (runPulse y).tape := by
  have hraise (e : Fault) (z : State) : (raise e z).tape = z.tape := by simp only [raise]; split <;> rfl
  simp only [runPulse, hc, ht]
  cases selectPulse y.config y.tape with
  | sync => simp only [pulseSync, onTape_tape, hc, ht]
  | bit0 => simp only [pulseBit0, onTape_tape, ht]
  | bit1 => simp only [pulseBit1, onTape_tape, ht]
  | err => simp only [pulseErr, onTape_tape, logEvent_tape, ht]
  | drain => simp only [pulseDrain, onTape_tape, logEvent_tape, hc, ht]
  | notimpl => simp only [pulseNotimpl, hraise, ht]
  | wait | inert => exact ht

theorem tape_toggle_congr (d : Nat) (hc : x.config = y.config) (ht : x.tape = y.tape) :
    (toggle d x).tape = (toggle d y).tape := by
  rw [toggle, toggle, ht]
  cases pushesSample y.tape.state with
  | true =>
    rw [onlyIf_true, onlyIf_true]
    exact tape_runPulse_congr hc (by simp only [onTape_tape, hc, ht])
  | false => exact tape_runPulse_congr hc ht

variable (w : Level) (d : Byte)

/-- A codec tick counts and latches, and on a change of level toggles and measures anew (44_tape_codec R280). -/
theorem tapeTick_running (hf : x.fault = none) (h1 : x.tape.state ≠ .awaitSync2) (h2 : x.tape.state ≠ .payload) :
    (tapeTick w d x).fault = none ∧
      (tapeTick w d x).tape =
        if (countAndLatch w d x).tape.wdLatch != (countAndLatch w d x).tape.wdPrev then
          (restartMeasure (toggle (countAndLatch w d x).tape.elapsed (countAndLatch w d x))).tape
        else (countAndLatch w d x).tape := by
  have hcounted : (countAndLatch w d x).fault = none := hf
  have htoggled (e : Nat) : (toggle e (countAndLatch w d x)).fault = none := toggle_running e hcounted h1 h2
  rw [tapeTick]
  cases (countAndLatch w d x).tape.wdLatch != (countAndLatch w d x).tape.wdPrev with
  | false => exact ⟨hf, rfl⟩
  | true =>
    rw [onlyIf_true, liveSeq_running hcounted, liveSeq_running (htoggled _), liveSeq_nil]
    exact ⟨htoggled _, rfl⟩

/-- What a codec tick makes of the tape depends on the tape and the configuration. -/
theorem tape_tapeTick_congr (hx : x.fault = none) (hy : y.fault = none) (hc : x.config = y.config)
    (ht : x.tape = y.tape) (h1 : y.tape.state ≠ .awaitSync2) (h2 : y.tape.state ≠ .payload) :
    (tapeTick w d x).tape = (tapeTick w d y).tape := by
  have hcount : (countAndLatch w d x).tape = (countAndLatch w d y).tape := by
    simp only [countAndLatch, onTape_tape, hc, ht]
  have htoggle (e : Nat) : (restartMeasure (toggle e (countAndLatch w d x))).tape =
      (restartMeasure (toggle e (countAndLatch w d y))).tape := by
    have hsame := tape_toggle_congr (x := countAndLatch w d x) (y := countAndLatch w d y) e hc hcount
    simp only [restartMeasure, onTape_tape, hsame]
  obtain ⟨-, hxt⟩ := tapeTick_running w d hx (ht ▸ h1) (ht ▸ h2)
  obtain ⟨-, hyt⟩ := tapeTick_running w d hy h1 h2
  rw [hxt, hyt, hcount, htoggle]

end

/-! ### The strobes -/

/-- The latched address after the strobes of the levels `b` with the byte `d` (41_vdp_bus_interface R162). -/
def strobedAddr (b : BusLines) (d : Byte) (s : State) : Byte := if s.prevAs && !b.as then d else s.addrLatch

/-- The strobes of the levels `b` with the byte `d` are a read that is answered (R163). -/
def readsVdp (b : BusLines) (d : Byte) (s : State) : Bool :=
  s.prevDs && !b.ds && b.rw && !(strobedAddr b d s).getLsbD 4

theorem onlyIf_dsFall (c : Bool) (rw : Level) (s : State) :
    onlyIf c (dsFall rw) s = if c && rw && !s.addrLatch.getLsbD 4 then answerRead s else s := by
  cases c with
  | true => exact dsFall_eq rw s
  | false => rfl

section
variable (b : BusLines) (d : Byte) (s : State)

/-- What the strobes drive. -/
theorem strobes_drive :
    (strobes b d s).adDriven = (readsVdp b d s || s.adDriven) ∧
      (strobes b d s).adOut =
        if readsVdp b d s then
          if (strobedAddr b d s).extractLsb' 0 3 = 0 then 0x00 else getReg s ((strobedAddr b d s).extractLsb' 0 3)
        else s.adOut := by
  have hwrite (t : State) : (onlyIf (s.prevRw && !b.rw) (rwFall d) t).adDriven = t.adDriven ∧
      (onlyIf (s.prevRw && !b.rw) (rwFall d) t).adOut = t.adOut := by
    obtain ⟨r, hr⟩ := rwFall_eq d t
    cases s.prevRw && !b.rw with
    | true => rw [onlyIf_true, hr]; exact ⟨rfl, rfl⟩
    | false => exact ⟨rfl, rfl⟩
  obtain ⟨p, q, hlatched⟩ : ∃ p q, onlyIf (s.prevAs && !b.as) (asFall d b.ds) s =
      { s with addrLatch := strobedAddr b d s, dsLatch := p, xqLatch := q } := by
    simp only [strobedAddr, onlyIf]; split <;> exact ⟨_, _, rfl⟩
  generalize hx : onlyIf (s.prevAs && !b.as) (asFall d b.ds) s = x at hlatched
  have hread : onlyIf (s.prevDs && !b.ds) (dsFall b.rw) x = if readsVdp b d s then answerRead x else x := by
    rw [onlyIf_dsFall, hlatched]; rfl
  obtain ⟨hdriven, hout⟩ := hwrite (onlyIf (s.prevDs && !b.ds) (dsFall b.rw) x)
  rw [strobes, hx, hdriven, hout, hread, hlatched]
  cases readsVdp b d s <;> exact ⟨rfl, rfl⟩

/-- While `RW` is high no strobe writes a register (R165). -/
theorem strobes_r (h : b.rw = true) : (strobes b d s).r = s.r := by
  have hds : Leaves State.r (dsFall b.rw) := fun s => by rw [dsFall_eq]; split <;> rfl
  have has : Leaves State.r (asFall d b.ds) := fun _ => rfl
  have hrw : (s.prevRw && !b.rw) = false := by rw [h, Bool.not_true, Bool.and_false]
  rw [strobes, hrw, onlyIf_false]
  exact (leaves_onlyIf _ hds _).trans (leaves_onlyIf _ has s)

end

/-- The edges of a tick in which no command runs are its strobes. -/
theorem liveSeq_edgeSteps_noCommand {b : BusLines} {d : Byte} {s : State} {l : Lines} (hf : s.fault = none)
    (hc : NoCommand b s) (hpins : l.pins.ad = d ∧ l.pins.as = b.as ∧ l.pins.ds = b.ds ∧ l.pins.rw = b.rw)
    (hprev : l.prevAs = s.prevAs ∧ l.prevDs = s.prevDs ∧ l.prevRw = s.prevRw) :
    liveSeq (edgeSteps l) s = strobes b d s := by
  obtain ⟨had, has, hds, hrw⟩ := hpins
  obtain ⟨hpas, hpds, hprw⟩ := hprev
  have hfault {f : State → State} (hleaves : Leaves edgeInputs f) (c : Bool) (t : State) (ht : t.fault = none) :
      (onlyIf c f t).fault = none := (congrArg Prod.fst (leaves_onlyIf c hleaves t) :).trans ht
  have hf1 := hfault (edgeInputs_asFall d b.ds) (s.prevAs && !b.as) s hf
  have hf2 := hfault (edgeInputs_dsFall b.rw) (s.prevDs && !b.ds) _ hf1
  have hf3 := hfault (edgeInputs_rwFall d) (s.prevRw && !b.rw) _ hf2
  simp only [edgeSteps, had, has, hds, hrw, hpas, hpds, hprw]
  rw [liveSeq_running hf, liveSeq_running hf1, liveSeq_running hf2, liveSeq_running hf3, liveSeq_nil]
  exact rwRise_noCommand d hc

/-! ### The raster ticks -/

/-- What the raster position runs by. -/
def clockPart (s : State) : Config × DerivedCfg × Nat × Nat := (s.config, s.cfg, s.line, s.tickInLine)

theorem clockPart_advance {s t : State} (h : clockPart t = clockPart s) :
    clockPart (advance t) = clockPart (advance s) := by
  simp only [clockPart, Prod.mk.injEq] at h
  obtain ⟨hconfig, hcfg, hline, htick⟩ := h
  have hframe (x : State) : (advance x).config = x.config ∧ (advance x).cfg = x.cfg :=
    ⟨(congrArg State.config (advance_frame x) :), (congrArg State.cfg (advance_frame x) :)⟩
  simp only [clockPart, hframe, advance_line, advance_tickInLine, hconfig, hcfg, hline, htick]

/-- In an accepted mode raster ticks run, change the raster alone, and move the position on. -/
theorem rasterTicks_accepted {s u : State} (hf : u.fault = none) (hm : ModeAccepted u)
    (hclock : clockPart u = clockPart s) (n : Nat) :
    ((live rasterStep)^[n] u).fault = none ∧ restoreRaster u ((live rasterStep)^[n] u) = u ∧
      clockPart ((live rasterStep)^[n] u) = clockPart (advance^[n] s) := by
  induction n with
  | zero => exact ⟨hf, rfl, hclock⟩
  | succ n ih =>
    rw [Function.iterate_succ_apply', Function.iterate_succ_apply']
    generalize (live rasterStep)^[n] u = v at ih ⊢
    obtain ⟨hvf, hsame, hvclock⟩ := ih
    have hvm : ModeAccepted v := by
      have hcfg : v.cfg = u.cfg := (congrArg State.cfg hsame :)
      rwa [ModeAccepted, hcfg]
    have hstep : clockPart (rasterStep v) = clockPart (advance v) := by
      obtain ⟨hline, htick⟩ := rasterStep_position hvf hvm
      have hraster := rasterStep_restore v
      have hadvance := advance_restore v
      have hconfig : (rasterStep v).config = (advance v).config :=
        (congrArg State.config hraster :).trans (congrArg State.config hadvance :).symm
      have hcfg : (rasterStep v).cfg = (advance v).cfg :=
        (congrArg State.cfg hraster :).trans (congrArg State.cfg hadvance :).symm
      simp only [clockPart, hline, htick, hconfig, hcfg]
    rw [live_of_running v _ hvf]
    exact ⟨rasterStep_running v hvf hvm, restoreRaster_trans u v _ hsame (rasterStep_restore v),
      hstep.trans (clockPart_advance hvclock)⟩

end Sys2Proof.Machine
end

section
/-! PROOFS of the family `45_system_tick`, the completion of a tick (45_system_tick R311): first in the rules' own terms,
for the tick in which no command runs, and then for every tick as its operations one after another. -/
namespace Sys2Proof.Machine

/-! ### The VDP ticks without a command -/

/-- The block after the strobes of a tick; without a VDP tick there are none. -/
def strobedStart (s : State) : State :=
  onlyIf (decide (1 ≤ s.config.ratio)) (strobes (tickBus s) (cpuByte s)) (tickStart s)

/-- The block after the VDP ticks of a tick in which no command runs. -/
def vdpEnd (s : State) : State := (live rasterStep)^[s.config.ratio] (strobedStart s)

/-- What the strobes of a tick change, with what its start changes. -/
theorem strobedStart_frame (s : State) :
    { strobedStart s with
        r := s.r, addrLatch := s.addrLatch, dsLatch := s.dsLatch, xqLatch := s.xqLatch
        adOut := s.adOut, adDriven := s.adDriven, log := s.log, outside := s.outside } = s := by
  obtain ⟨o, ho⟩ := served_eq s
  have hstrobes := strobes_frame (tickBus s) (cpuByte s) (undriven { s with outside := o })
  rw [strobedStart, tickStart, ho]
  cases decide (1 ≤ s.config.ratio) with
  | true => exact (congrArg (fun t : State => { t with adDriven := s.adDriven, outside := s.outside }) hstrobes :)
  | false => rfl

theorem strobedStart_outside (s : State) : (strobedStart s).outside = (tickStart s).outside := by
  have hstrobes : Leaves State.outside (strobes (tickBus s) (cpuByte s)) := fun t =>
    (congrArg State.outside (strobes_frame (tickBus s) (cpuByte s) t) :)
  exact leaves_onlyIf _ hstrobes (tickStart s)

theorem strobedStart_r {s : State} (h : (tickBus s).rw = true) : (strobedStart s).r = s.r :=
  (leaves_onlyIf _ (fun t => strobes_r (tickBus s) (cpuByte s) t h) (tickStart s)).trans
    (congrArg State.r (tickStart_frame s) :)

/-- The read that the strobes of a tick answer is one of the block as the tick finds it. -/
theorem strobedStart_drive (s : State) :
    (strobedStart s).adDriven = (decide (1 ≤ s.config.ratio) && readsVdp (tickBus s) (cpuByte s) s) ∧
      (strobedStart s).adOut =
        if decide (1 ≤ s.config.ratio) && readsVdp (tickBus s) (cpuByte s) s then
          if (strobedAddr (tickBus s) (cpuByte s) s).extractLsb' 0 3 = 0 then 0x00
          else getReg s ((strobedAddr (tickBus s) (cpuByte s) s).extractLsb' 0 3)
        else s.adOut := by
  obtain ⟨o, ho⟩ := served_eq s
  have hdrive := strobes_drive (tickBus s) (cpuByte s) (tickStart s)
  rw [tickStart, ho] at hdrive
  rw [strobedStart, tickStart, ho]
  cases decide (1 ≤ s.config.ratio) with
  | true =>
    obtain ⟨hdriven, hout⟩ := hdrive
    exact ⟨hdriven.trans (Bool.or_false _), hout⟩
  | false => exact ⟨rfl, rfl⟩

section
variable {s : State} (hf : s.fault = none) (hm : ModeAccepted s)
include hf hm

/-- The VDP ticks run, and end with the raster `RATIO` positions on. -/
theorem vdpEnd_runs : (vdpEnd s).fault = none ∧ restoreRaster (strobedStart s) (vdpEnd s) = strobedStart s ∧
    clockPart (vdpEnd s) = clockPart (advance^[s.config.ratio] s) := by
  have hframe := strobedStart_frame s
  have hmode : ModeAccepted (strobedStart s) := by
    have hcfg : (strobedStart s).cfg = s.cfg := (congrArg State.cfg hframe :)
    rwa [ModeAccepted, hcfg]
  exact rasterTicks_accepted (s := s) (u := strobedStart s) ((congrArg State.fault hframe :).trans hf) hmode
    (congrArg clockPart hframe :) s.config.ratio

/-- The VDP ticks of a tick in which no command runs. -/
theorem tickVdp_noCommand (hc : NoCommand (tickBus s) s) :
    ∃ l : Lines, l.bus = tickBus s ∧ l.cpu = { cpuAnswer s with d := cpuByte s } ∧
      tickVdp (putLines (startLines s) (tickStart s)) = putLines (returned (vdpEnd s) l) (vdpEnd s) := by
  by_cases hratio : 1 ≤ s.config.ratio
  · refine ⟨tickLines s, rfl, rfl, ?_⟩
    obtain ⟨hv, -, -⟩ := vdpEnd_runs hf hm
    have hframe := strobedStart_frame s
    have hstart := tickStart_frame s
    have hnoCommand : NoCommand (tickBus s) (tickStart s) := by
      have hprev : (tickStart s).prevRw = s.prevRw := (congrArg State.prevRw hstart :)
      have hxq : (tickStart s).xqLatch = s.xqLatch := (congrArg State.xqLatch hstart :)
      rwa [NoCommand, hprev, hxq]
    have hedges : liveSeq (edgeSteps (startLines s)) (tickStart s) = strobedStart s := by
      rw [strobedStart, decide_eq_true hratio, onlyIf_true]
      exact liveSeq_edgeSteps_noCommand ((tickStart_fault s).trans hf) hnoCommand ⟨rfl, rfl, rfl, rfl⟩
        ⟨(congrArg State.prevAs hstart :).symm, (congrArg State.prevDs hstart :).symm,
          (congrArg State.prevRw hstart :).symm⟩
    exact tickVdp_isItsOperations hf hratio hedges ((congrArg State.fault hframe :).trans hf) rfl hv
  · have hzero : s.config.ratio = 0 := by omega
    have hend : vdpEnd s = tickStart s := by
      rw [vdpEnd, strobedStart, decide_eq_false hratio, hzero]; rfl
    have hlines : returned (tickStart s) (startLines s) = startLines s := by
      obtain ⟨o, ho⟩ := served_eq s
      rw [tickStart, ho]; rfl
    have hconfig : (putLines (startLines s) (tickStart s)).config = s.config := tickStart_config s
    refine ⟨startLines s, rfl, rfl, ?_⟩
    rw [hend, hlines, tickVdp, hconfig, hzero]
    rfl

end

/-! ### The whole tick without a command -/

/-- What neither the raster nor the keyboard nor the codec changes. -/
def bodyPart (s : State) : Vector Byte 8 × Vector Byte 8 × DerivedCfg × Memory × Byte × Bool :=
  (s.r, s.ir, s.cfg, s.vram, s.adOut, s.adDriven)

/-- The byte of a tick in which no command runs (R311, steps 2, 6 and 7). -/
def noCommandByte (s : State) : Byte :=
  if !(tickBus s).kbd then keyAnswer (tickStart s) (cpuAnswer s).a
  else if (strobedStart s).adDriven then (strobedStart s).adOut else cpuByte s

section
variable {s : State} (hf : s.fault = none) (hm : ModeAccepted s)
include hf hm

theorem answerByte_vdpEnd {l : Lines} (hbus : l.bus = tickBus s) (hcpu : l.cpu = { cpuAnswer s with d := cpuByte s }) :
    answerByte l (vdpEnd s) = noCommandByte s := by
  obtain ⟨-, hraster, -⟩ := vdpEnd_runs hf hm
  have hdriven : (vdpEnd s).adDriven = (strobedStart s).adDriven := (congrArg State.adDriven hraster :)
  have hout : (vdpEnd s).adOut = (strobedStart s).adOut := (congrArg State.adOut hraster :)
  have houtside : (vdpEnd s).outside = (tickStart s).outside :=
    (congrArg State.outside hraster :).trans (strobedStart_outside s)
  have hkey (a : BitVec 16) : keyAnswer (vdpEnd s) a = keyAnswer (tickStart s) a := by
    simp only [keyAnswer, houtside]
  rw [answerByte, hbus, hcpu, hkey, hdriven, hout, noCommandByte]

/-- The codec tick finds a block that runs, with the tape and the configuration as they were. -/
theorem keyed_vdpEnd (l : Lines) : (keyed l (vdpEnd s)).fault = none ∧
    (keyed l (vdpEnd s)).config = s.config ∧ (keyed l (vdpEnd s)).tape = s.tape := by
  obtain ⟨hv, hraster, -⟩ := vdpEnd_runs hf hm
  have hstart := strobedStart_frame s
  obtain ⟨o, hkeyed⟩ := keyed_eq l (vdpEnd s)
  rw [hkeyed]
  exact ⟨hv, (congrArg State.config hraster :).trans (congrArg State.config hstart :),
    (congrArg State.tape hraster :).trans (congrArg State.tape hstart :)⟩

end

/-- A tick in which no command runs, whose codec state has behaviour and which selects no tape read, completes. -/
theorem sysTick_noCommand {s : State} (hf : s.fault = none) (hm : ModeAccepted s) (hrd : (tickBus s).tapeRd = true)
    (h1 : s.tape.state ≠ .awaitSync2) (h2 : s.tape.state ≠ .payload) (hc : NoCommand (tickBus s) s) :
    (sysTick s).fault = none ∧ bodyPart (sysTick s) = bodyPart (strobedStart s) ∧
      clockPart (sysTick s) = clockPart (advance^[s.config.ratio] s) ∧
      (sysTick s).cpuPins =
        { cpuAnswer s with d := noCommandByte s, int := s.config.intFromVs && !(sysTick s).vs, nmi := false } ∧
      (sysTick s).tape = (tapeTick (tickBus s).tapeWr (noCommandByte s) s).tape := by
  obtain ⟨l, hbus, hcpu, hvdp⟩ := tickVdp_noCommand hf hm hc
  obtain ⟨hv, hraster, hclock⟩ := vdpEnd_runs hf hm
  have hbyte := answerByte_vdpEnd hf hm hbus hcpu
  obtain ⟨hkeyedf, hconfig, htape⟩ := keyed_vdpEnd hf hm l
  obtain ⟨hw, -⟩ := tapeTick_running l.bus.tapeWr (answerByte l (vdpEnd s)) hkeyedf (htape ▸ h1) (htape ▸ h2)
  have hcodec := tape_tapeTick_congr l.bus.tapeWr (answerByte l (vdpEnd s)) hkeyedf hf hconfig htape h1 h2
  rw [← codecTicked] at hw hcodec
  have htick := sysTick_completes hf hvdp hv (hbus ▸ hrd) hw
  have hframe := codecTicked_frame l (vdpEnd s)
  generalize codecTicked l (vdpEnd s) = w at hw hcodec htick hframe
  rw [hbus, hbyte] at hcodec
  rw [hbyte, hcpu] at htick
  have hvs : (sysTick s).vs = w.vs := (congrArg State.vs htick :)
  refine ⟨(congrArg State.fault htick :).trans hw, ?_, ?_, ?_, (congrArg State.tape htick :).trans hcodec⟩
  · exact (congrArg bodyPart htick :).trans ((congrArg bodyPart hframe :).trans (congrArg bodyPart hraster :))
  · exact (congrArg clockPart htick :).trans ((congrArg clockPart hframe :).trans hclock)
  · rw [hvs]; exact (congrArg State.cpuPins htick :)

/-- Settles O49: the tick without a command part by part, and every tick as its operations. -/
theorem systemTickCompletes : Obligations.SystemTickCompletes := by
  intro s hf p b asked reads d atBus hrd
  constructor
  · intro hm h1 h2 hc addr n driven
    obtain ⟨hrunning, hbody, hclock, hpins, htape⟩ := sysTick_noCommand hf hm hrd h1 h2 hc
    obtain ⟨hdriven, hout⟩ := strobedStart_drive s
    have hreads : (decide (1 ≤ s.config.ratio) && readsVdp (tickBus s) (cpuByte s) s) = driven := by
      simp only [readsVdp, ← Bool.and_assoc]; rfl
    rw [hreads] at hdriven hout
    have hstart := strobedStart_frame s
    have hfixed := fixedParts_sysTick s
    simp only [bodyPart, clockPart, fixedParts, Prod.mk.injEq] at hbody hclock hfixed
    obtain ⟨hr, hir, hcfg, hvram, hadOut, hadDriven⟩ := hbody
    obtain ⟨-, -, hline, htickInLine⟩ := hclock
    obtain ⟨hconfig, hscript, hstop, hresult⟩ := hfixed
    have hbyte : noCommandByte s =
        if !b.kbd then keyAnswer atBus p.a else if driven then (sysTick s).adOut else d := by
      rw [noCommandByte, hdriven, ← hadOut]; rfl
    refine ⟨sysTick s, rfl, hrunning, sysTick_tickCount hrunning, hir.trans (congrArg State.ir hstart :),
      hcfg.trans (congrArg State.cfg hstart :), hvram.trans (congrArg State.vram hstart :), hconfig, hscript, hstop,
      hresult, fun hrw => hr.trans (strobedStart_r hrw), hline, htickInLine, hadDriven.trans hdriven,
      hadOut.trans hout, ?_, fun svc hsvc => ⟨_, exec_tpTick hf hsvc _, ?_⟩⟩
    · rw [hpins, hbyte]
    · have hd : (sysTick s).cpuPins.d = noCommandByte s := congrArg CpuPins.d hpins
      rw [← hd] at htape
      exact htape
  · intro hratio
    refine ⟨_, runsTo_edges s (tickStart s), fun hu => ⟨_, runsTo_raTicks _ _, fun hv => ?_⟩⟩
    intro byte answered svc hsvc
    have hkeyed : answered.fault = none := (keyed_fault (tickLines s) _).trans hv
    refine ⟨_, exec_tpTick hkeyed hsvc byte, fun hw => ⟨sysTick s, rfl, ?_⟩⟩
    exact sysTick_completes (l := tickLines s) hf (tickVdp_isItsOperations hf hratio rfl hu rfl hv) hv hrd hw

end Sys2Proof.Machine
end

section
/-! PROOFS of the family `60_exceptions`, the fault mark (60_exceptions R345). An operation of the block leaves a halted
block as it is; the host calls that are not a reset leave the mark. -/
namespace Sys2Proof.Machine

/-- In a halted block an operation that is no host call, whatever its operands, has no other next state. -/
theorem eq_of_exec_halted {i : Instr} {s t : State} {e : Fault} (hf : s.fault = some e) (hhost : isHostCall i = false)
    (h : exec i s = .next t) : t = s := by
  cases hwf : i.wf with
  | true => cases (haltedBlockStays i s e hf hhost hwf).symm.trans h; rfl
  | false =>
    obtain ⟨name, hrefused⟩ := exec_of_not_wf s hwf
    cases hrefused.symm.trans h

theorem fault_insert (image : List Byte) : Leaves State.fault (insert image) := fun s => by
  simp only [insert]; split <;> rfl

/-- A run of a halted block completes no tick, so it leaves the mark. -/
theorem run_fault_halted {s : State} {e : Fault} (n : Nat) (hf : s.fault = some e) : (run n s).fault = some e := by
  obtain ⟨k, -, -, -, hloop⟩ := runLoop_eq_iterate n (started s)
  obtain ⟨hfault, -⟩ := iterate_halted (s := started s) k hf
  rw [run_eq hloop]
  exact hfault

/-- A host call other than reset leaves the mark of a halted block (45_system_tick R318, R319, R321). -/
theorem hostCall_fault {i : Instr} {s t : State} {e : Fault} (hf : s.fault = some e) (hhost : isHostCall i = true)
    (hsys : i ≠ .sysReset) (hreset : i ≠ .hostReset) (h : exec i s = .next t) : t.fault = some e := by
  cases i with
  | sysReset => exact absurd rfl hsys
  | hostReset => exact absurd rfl hreset
  | tpInsert image | hostInsert image =>
    obtain ⟨-, rfl⟩ := guarded_next h
    exact (fault_insert image s).trans hf
  | tpEject | hostEject | hostFb => cases h; exact hf
  | sysRun n => cases h; exact run_fault_halted n hf
  | _ => cases hhost

/-- Settles O48: an operation of the block leaves a halted block alone, a host call other than reset leaves its mark, and
reset takes it away. -/
theorem onlyResetClearsTheFault : Obligations.OnlyResetClearsTheFault := by
  intro i s t e hf h
  constructor
  · intro hsys hreset
    cases hhost : isHostCall i with
    | true => exact hostCall_fault hf hhost hsys hreset h
    | false => rw [eq_of_exec_halted hf hhost h, hf]
  · rintro (rfl | rfl) <;> cases h <;> rfl

end Sys2Proof.Machine
end

section
/-! PROOFS of the family `60_exceptions`, the tick that a raise ends (60_exceptions R343): where its edges, its raster
ticks, the tape read or the codec tick halts, the tick is what that operation left, beside its lines. -/
namespace Sys2Proof.Machine

/-! ### The lines of a halting tick -/

/-- The state that a tick leaves which an operation ended in `u`: the records of the bus are beside it. -/
def EndsTick (s u : State) : Prop :=
  sysTick s = { u with pins := (sysTick s).pins, bus := (sysTick s).bus, cpu := (sysTick s).cpu }

/-- The edge detectors. -/
def detectors (s : State) : Level × Level × Level := (s.prevAs, s.prevDs, s.prevRw)

/-- The lines that a state shows. -/
def linesOf (s : State) : Lines :=
  { pins := s.pins, bus := s.bus, cpu := s.cpu, prevAs := s.prevAs, prevDs := s.prevDs, prevRw := s.prevRw }

/-- What does not see the lines leaves the edge detectors. -/
theorem detectors_of_commutes {f : State → State} (h : ∀ l, Commutes (putLines l) f) :
    Leaves detectors f := fun s => by
  have hkept : f s = putLines (linesOf s) (f s) := h (linesOf s) s
  rw [hkept]
  rfl

/-- The edges of a tick do not change the detectors; the last step of the bus step does (R161). -/
theorem detectors_edges (l : Lines) : Leaves detectors (liveSeq (edgeSteps l)) := by
  refine leaves_liveSeq fun f hf => ?_
  simp only [edgeSteps, List.mem_cons, List.not_mem_nil, or_false] at hf
  rcases hf with rfl | rfl | rfl | rfl
  · exact leaves_onlyIf _ (detectors_of_commutes fun l' => asFall_putLines l' l.pins.ad l.pins.ds)
  · exact leaves_onlyIf _ (detectors_of_commutes fun l' => dsFall_putLines l' l.pins.rw)
  · exact leaves_onlyIf _ (detectors_of_commutes fun l' => rwFall_putLines l' l.pins.ad)
  · exact leaves_onlyIf _ (detectors_of_commutes rwRise_putLines)

/-- A tick that is a state beside lines ends in the state with the detectors of the lines. -/
theorem endsTick_of_putLines {s u : State} {l : Lines} (h : sysTick s = putLines l u) :
    EndsTick s { u with prevAs := l.prevAs, prevDs := l.prevDs, prevRw := l.prevRw } := by
  rw [EndsTick, h]
  rfl

/-- A tick that ends in `u`, as an operation. -/
theorem exec_of_endsTick {s u : State} (h : EndsTick s u) :
    exec .sysTick s = .next { u with pins := (sysTick s).pins, bus := (sysTick s).bus, cpu := (sysTick s).cpu } :=
  congrArg Host.Outcome.next h

/-! ### Halts in the VDP ticks -/

section
variable {s u : State} {e : Fault}

/-- VDP ticks that halt end the system tick. -/
theorem sysTick_of_tickVdp_halted (hf : s.fault = none) (hvdp : tickVdp (putLines (startLines s) (tickStart s)) = u)
    (hu : u.fault = some e) : sysTick s = u := by
  have hstart : (putLines (startLines s) (tickStart s)).fault = none := (tickStart_fault s).trans hf
  rw [sysTick_eq hf, liveSeq_running hstart, hvdp, liveSeq_halted u _ e hu]

/-- Edges that halt end the tick before the raster, and before the detectors follow the lines (R161, R311 step 5). -/
theorem endsTick_edges (hf : s.fault = none) (hratio : 1 ≤ s.config.ratio)
    (hu : liveSeq (edgeSteps (startLines s)) (tickStart s) = u) (he : u.fault = some e) : EndsTick s u := by
  have hstart : (putLines (startLines s) (tickStart s)).fault = none := (tickStart_fault s).trans hf
  have hconfig : (putLines (startLines s) (tickStart s)).config = s.config := tickStart_config s
  have hbus : busStep (putLines (startLines s) (tickStart s)) = putLines (startLines s) u := by
    rw [busStep_eq_edgeTests, liveSeq_forall₂ (fault_putLines _) (edgeTests_forall₂ _), hu]
    exact live_of_halted (putLines (startLines s) u) _ e he
  have hvdp := tickVdp_halts hstart hbus he (hconfig ▸ hratio)
  have htick := endsTick_of_putLines (sysTick_of_tickVdp_halted hf hvdp he)
  have hprev : detectors u = detectors s := by
    rw [← hu]
    exact (detectors_edges _ _).trans (congrArg detectors (tickStart_frame s) :)
  simp only [detectors, Prod.mk.injEq] at hprev
  obtain ⟨has, hds, hrw⟩ := hprev
  simpa only [startLines, ← has, ← hds, ← hrw] using htick

/-- Without an edge VDP ticks are raster ticks, halting or not, and only what the VDP returns changes on the lines. -/
theorem vdpTicks_beside {l : Lines} (hl : latchedLines l = l) (n : Nat) (s : State) :
    ∃ l', latchedLines l' = l' ∧ (l'.prevAs, l'.prevDs, l'.prevRw) = (l.prevAs, l.prevDs, l.prevRw) ∧
      vdpTicks n (putLines l s) = putLines l' ((live rasterStep)^[n] s) := by
  rw [vdpTicks_eq_iterate]
  induction n with
  | zero => exact ⟨l, hl, rfl, rfl⟩
  | succ n ih =>
    obtain ⟨l', hl', hprev, hticks⟩ := ih
    rw [Function.iterate_succ_apply', Function.iterate_succ_apply', hticks]
    generalize (live rasterStep)^[n] s = y
    cases hy : y.fault with
    | some e =>
      rw [live_of_halted y _ e hy, live_of_halted (putLines l' y) _ e hy]
      exact ⟨l', hl', hprev, rfl⟩
    | none =>
      rw [live_of_running y _ hy, live_of_running (putLines l' y) _ hy]
      cases hv : (rasterStep y).fault with
      | none =>
        have hreturned : latchedLines (returned (rasterStep y) l') = returned (rasterStep y) l' :=
          congrArg (returned (rasterStep y)) hl'
        exact ⟨_, hreturned, hprev, vdpTick_putLines hl' hy hv⟩
      | some e =>
        have hquiet : busStep (putLines l' y) = putLines l' y :=
          busStep_quiet _ (congrArg Lines.prevAs hl') (congrArg Lines.prevDs hl') (congrArg Lines.prevRw hl')
        refine ⟨l', hl', hprev, ?_⟩
        rw [vdpTick, liveSeq_running (s := putLines l' y) hy, hquiet, liveSeq_running (s := putLines l' y) hy,
          rasterStep_putLines, liveSeq_halted (putLines l' (rasterStep y)) _ e hv]

/-- Raster ticks that halt end the tick; the detectors have followed the lines by then. -/
theorem endsTick_raster {v : State} (hf : s.fault = none) (hratio : 1 ≤ s.config.ratio)
    (hu : liveSeq (edgeSteps (startLines s)) (tickStart s) = u) (huf : u.fault = none)
    (hv : (live rasterStep)^[s.config.ratio] u = v) (he : v.fault = some e) :
    EndsTick s { v with prevAs := (tickBus s).as, prevDs := (tickBus s).ds, prevRw := (tickBus s).rw } := by
  have hstart : (putLines (startLines s) (tickStart s)).fault = none := (tickStart_fault s).trans hf
  have hconfig : (putLines (startLines s) (tickStart s)).config = s.config := tickStart_config s
  have hbus : busStep (putLines (startLines s) (tickStart s)) = putLines (tickLines s) u := busStep_putLines hu huf
  have huconfig : u.config = (putLines (startLines s) (tickStart s)).config :=
    (congrArg State.config hbus).symm.trans (congrArg Prod.fst (fixedParts_busStep _))
  have hquiet : busStep (putLines (tickLines s) u) = putLines (tickLines s) u := busStep_quiet _ rfl rfl rfl
  have hedges : tickVdp (putLines (startLines s) (tickStart s)) = tickVdp (putLines (tickLines s) u) :=
    tickVdp_congr hstart huf (hbus.trans hquiet.symm) (congrArg Config.ratio huconfig.symm) (hconfig ▸ hratio)
  obtain ⟨l, -, hprev, hticks⟩ := vdpTicks_beside (l := tickLines s) rfl u.config.ratio u
  have hraster : (live rasterStep)^[u.config.ratio] u = v := by rw [huconfig, hconfig, hv]
  rw [hraster] at hticks
  have htick := endsTick_of_putLines (sysTick_of_tickVdp_halted hf (hedges.trans hticks) he)
  simp only [Prod.mk.injEq] at hprev
  obtain ⟨has, hds, hrw⟩ := hprev
  rwa [has, hds, hrw] at htick

end

/-! ### Halts after the VDP ticks -/

section
variable {s v : State} {l : Lines} (hf : s.fault = none)
  (hvdp : tickVdp (putLines (startLines s) (tickStart s)) = putLines (returned v l) v) (hv : v.fault = none)
include hf hvdp hv

/-- A tick from its tape read on (R311, steps 8 to 11). -/
theorem sysTick_afterAnswers :
    sysTick s =
      liveSeq [checkTapeRead, tickTape, driveInterrupts, commitTick] (putLines (answeredLines l v) (keyed l v)) := by
  have hstart : (putLines (startLines s) (tickStart s)).fault = none := (tickStart_fault s).trans hf
  have hfold : (foldVdp (putLines (returned v l) v)).fault = none := by rw [foldVdp_eq]; exact hv
  rw [sysTick_eq hf, liveSeq_running hstart, hvdp, liveSeq_running (s := putLines _ v) hv, liveSeq_running hfold,
    foldAnswers]

/-- A tape read halts the tick before the codec (R311 step 8, 44_tape_codec R295). -/
theorem endsTick_tapeRead (hrd : l.bus.tapeRd = false) :
    EndsTick s
      { markFault .notImplementedTapeRead (keyed l v) with
          prevAs := l.prevAs, prevDs := l.prevDs, prevRw := l.prevRw } := by
  have hkeyed : (putLines (answeredLines l v) (keyed l v)).fault = none := (keyed_fault l v).trans hv
  refine endsTick_of_putLines (l := answeredLines l v) ?_
  rw [sysTick_afterAnswers hf hvdp hv, liveSeq_running hkeyed, checkTapeRead_low hkeyed hrd]
  exact liveSeq_halted _ _ .notImplementedTapeRead rfl

/-- A codec tick that halts ends the tick before the commit (R311 step 9). -/
theorem endsTick_codec {e : Fault} (hrd : l.bus.tapeRd = true) (he : (codecTicked l v).fault = some e) :
    EndsTick s { codecTicked l v with prevAs := l.prevAs, prevDs := l.prevDs, prevRw := l.prevRw } := by
  have hkeyed : (putLines (answeredLines l v) (keyed l v)).fault = none := (keyed_fault l v).trans hv
  have hread : checkTapeRead (putLines (answeredLines l v) (keyed l v)) = putLines (answeredLines l v) (keyed l v) :=
    checkTapeRead_high hrd
  have htape : tickTape (putLines (answeredLines l v) (keyed l v)) =
      putLines (answeredLines l v) (codecTicked l v) := tapeTick_putLines _ l.bus.tapeWr (answerByte l v) (keyed l v)
  refine endsTick_of_putLines (l := answeredLines l v) ?_
  rw [sysTick_afterAnswers hf hvdp hv, liveSeq_running hkeyed, hread, liveSeq_running hkeyed, htape]
  exact liveSeq_halted (putLines _ (codecTicked l v)) _ e he

end

end Sys2Proof.Machine
end

section
/-! PROOFS of the family `60_exceptions`, which raise ends a tick (60_exceptions R343): the tape read, the unrecognised
command and the rejected character mode, and then whichever operation of a tick halts first. -/
namespace Sys2Proof.Machine

/-- What the codec tick and the commit of a tick change, and nothing before them. -/
def commitPart (s : State) : Nat × Tape × CpuPins := (s.tickCount, s.tape, s.cpuPins)

section
variable {s : State} (hf : s.fault = none)
include hf

/-! ### A tape read -/

/-- A tick in which no command runs and the tape port is read halts with the raster `RATIO` positions on and the codec
and the count untouched. -/
theorem sysTick_tapeRead (hm : ModeAccepted s) (hc : NoCommand (tickBus s) s) (hrd : (tickBus s).tapeRd = false) :
    (sysTick s).fault = some .notImplementedTapeRead ∧ commitPart (sysTick s) = commitPart s ∧
      clockPart (sysTick s) = clockPart (advance^[s.config.ratio] s) := by
  obtain ⟨l, hbus, -, hvdp⟩ := tickVdp_noCommand hf hm hc
  obtain ⟨hv, hraster, hclock⟩ := vdpEnd_runs hf hm
  obtain ⟨o, ho⟩ := keyed_eq l (vdpEnd s)
  have htick := endsTick_tapeRead hf hvdp hv (hbus ▸ hrd)
  rw [ho] at htick
  exact ⟨(congrArg State.fault htick :),
    (congrArg commitPart htick :).trans
      ((congrArg commitPart hraster :).trans (congrArg commitPart (strobedStart_frame s) :)),
    (congrArg clockPart htick :).trans hclock⟩

/-! ### An unrecognised command -/

/-- The edges of a tick in which only `DS` may fall and `RW` rises on an unrecognised command: the read it may answer is
driven, and the command raises. -/
theorem edges_unrecognised (hprev : s.prevRw = false) (hxq : s.xqLatch = true) (has : (tickBus s).as = true)
    (hrw : (tickBus s).rw = true) (hclass : cmdClass s.config (cmdOp (getReg s 0)) = .unrecognised) :
    ∃ a p l o, liveSeq (edgeSteps (startLines s)) (tickStart s) =
      markFault (.unknownOpcode (getReg s 0)) { s with adOut := a, adDriven := p, log := l, outside := o } := by
  obtain ⟨o, ho⟩ := served_eq s
  obtain ⟨a, p, l, hread⟩ : ∃ a p l, onlyIf (s.prevDs && !(tickBus s).ds) (dsFall true) (tickStart s) =
      { s with adOut := a, adDriven := p, log := l, outside := o } := by
    rw [onlyIf_dsFall, tickStart, ho]
    split <;> exact ⟨_, _, _, rfl⟩
  refine ⟨a, p, l, o, ?_⟩
  generalize hx : ({ s with adOut := a, adDriven := p, log := l, outside := o } : State) = x at hread ⊢
  have hrise : rwRise x = markFault (.unknownOpcode (getReg s 0)) x := by
    subst hx
    simp only [rwRise, hxq, onlyIf_true]
    exact (dispatch_eq_runClass _ _).trans ((congrArg (runClass · _ _) hclass).trans (raise_of_running _ _ hf))
  have hxf : x.fault = none := by rw [← hx]; exact hf
  simp only [edgeSteps, startLines, has, hrw, hprev, Bool.not_true, Bool.not_false, Bool.and_false, Bool.and_true]
  rw [liveSeq_running ((tickStart_fault s).trans hf), onlyIf_false, liveSeq_running ((tickStart_fault s).trans hf),
    hread, liveSeq_running hxf, onlyIf_false, liveSeq_running hxf, onlyIf_true, hrise, liveSeq_nil]

/-! ### A rejected character mode -/

/-- The first raster tick of a text row halts in a mode that the reload rejects, and leaves all else as it found it. -/
theorem live_rasterStep_rejected {k : Nat} {f : Fault} (h1 : 1 ≤ k) (h24 : k ≤ 24)
    (hline : s.line = s.config.vActiveStart + 10 * k) (htick : s.tickInLine = 0)
    (hmode : charModeFault s.cfg.charMode = some f) : live rasterStep s = markFault f s := by
  obtain ⟨-, hactive⟩ := rasterTickRunsSelectedParts s hf
  obtain ⟨-, -, hreject⟩ := hactive (10 * k) (by omega) hline
  have hnot : ¬ ModeAccepted s := fun hm => by
    rw [(charModeFault_none s.cfg.charMode).2 hm] at hmode
    cases hmode
  obtain ⟨f', hf', hexec⟩ := hreject (by omega) (by omega) htick hnot
  cases hf'.symm.trans hmode
  exact Host.Outcome.next.inj hexec

/-- The edges of a tick in which no command runs leave the block that its raster ticks find. -/
theorem edges_noCommand (hratio : 1 ≤ s.config.ratio) (hc : NoCommand (tickBus s) s) :
    liveSeq (edgeSteps (startLines s)) (tickStart s) = strobedStart s := by
  have hstart := tickStart_frame s
  have hprev : detectors (tickStart s) = detectors s := (congrArg detectors hstart :)
  have hxq : (tickStart s).xqLatch = s.xqLatch := (congrArg State.xqLatch hstart :)
  simp only [detectors, Prod.mk.injEq] at hprev
  obtain ⟨has, hds, hrw⟩ := hprev
  have hnoCommand : NoCommand (tickBus s) (tickStart s) := by rwa [NoCommand, hrw, hxq]
  rw [strobedStart, decide_eq_true hratio, onlyIf_true]
  exact liveSeq_edgeSteps_noCommand ((tickStart_fault s).trans hf) hnoCommand ⟨rfl, rfl, rfl, rfl⟩
    ⟨has.symm, hds.symm, hrw.symm⟩

/-- A tick whose first raster tick rejects the character mode ends there. -/
theorem endsTick_rejectedMode {k : Nat} {f : Fault} (hratio : 1 ≤ s.config.ratio) (hc : NoCommand (tickBus s) s)
    (h1 : 1 ≤ k) (h24 : k ≤ 24) (hline : s.line = s.config.vActiveStart + 10 * k) (htick : s.tickInLine = 0)
    (hmode : charModeFault s.cfg.charMode = some f) :
    EndsTick s
      { markFault f (strobedStart s) with
          prevAs := (tickBus s).as, prevDs := (tickBus s).ds, prevRw := (tickBus s).rw } := by
  have hframe := strobedStart_frame s
  have hstrobed : (strobedStart s).fault = none := (congrArg State.fault hframe :).trans hf
  have hclock : clockPart (strobedStart s) = clockPart s := (congrArg clockPart hframe :)
  simp only [clockPart, Prod.mk.injEq] at hclock
  obtain ⟨hconfig, hcfg, hl, ht⟩ := hclock
  have hfirst : live rasterStep (strobedStart s) = markFault f (strobedStart s) :=
    live_rasterStep_rejected hstrobed h1 h24 (by rw [hl, hconfig, hline]) (ht.trans htick) (hcfg.symm ▸ hmode)
  obtain ⟨n, hn⟩ := Nat.exists_eq_add_of_le' hratio
  have hticks : (live rasterStep)^[s.config.ratio] (strobedStart s) = markFault f (strobedStart s) := by
    rw [hn, Function.iterate_succ_apply, hfirst]
    exact Function.iterate_fixed (live_of_halted _ rasterStep f rfl) n
  exact endsTick_raster hf hratio (edges_noCommand hf hratio hc) hstrobed hticks rfl

end

/-- Settles O50: the three halts, and then every tick by the first of its operations that halts. -/
theorem firstRaiseEndsTheTick : Obligations.FirstRaiseEndsTheTick := by
  intro s hf p b asked reads d atBus ends latched
  refine ⟨fun hm hprev hrd => ?_, fun hratio hprev hxq has hrw hclass => ?_,
    fun k f hratio hprev h1 h24 hline htick hmode => ?_, fun hratio => ?_⟩
  · obtain ⟨hfault, hcommit, hclock⟩ := sysTick_tapeRead hf hm (.inl hprev) hrd
    simp only [commitPart, clockPart, Prod.mk.injEq] at hcommit hclock
    obtain ⟨hcount, htape, hpins⟩ := hcommit
    obtain ⟨-, -, hline, -⟩ := hclock
    exact ⟨sysTick s, rfl, hfault, hcount, htape, hpins, hline⟩
  · obtain ⟨a, q, l, o, hedges⟩ := edges_unrecognised hf hprev hxq has hrw hclass
    have htick := endsTick_edges hf hratio hedges rfl
    exact ⟨_, exec_of_endsTick htick, rfl, rfl, rfl, rfl, rfl, rfl, rfl, hprev⟩
  · have hticked := endsTick_rejectedMode hf hratio (.inl hprev) h1 h24 hline htick hmode
    have hframe := strobedStart_frame s
    exact ⟨_, exec_of_endsTick hticked, rfl, (congrArg State.tickCount hframe :), (congrArg State.tape hframe :),
      (congrArg State.cpuPins hframe :), (congrArg State.line hframe :),
      (congrArg State.tickInLine hframe :).trans htick, (congrArg State.rowbuf hframe :),
      (congrArg State.quad hframe :), (congrArg State.fb hframe :), (congrArg State.vram hframe :)⟩
  · refine ⟨_, runsTo_edges s (tickStart s), fun hu => ?_, fun hu => ⟨_, runsTo_raTicks _ _, fun hv => ?_, ?_⟩⟩
    · obtain ⟨e, he⟩ := Option.ne_none_iff_exists'.1 hu
      exact ⟨sysTick s, rfl, endsTick_edges hf hratio rfl he⟩
    · obtain ⟨e, he⟩ := Option.ne_none_iff_exists'.1 hv
      exact ⟨sysTick s, rfl, endsTick_raster hf hratio rfl hu rfl he⟩
    · intro hv byte answered
      have hvdp := tickVdp_isItsOperations hf hratio rfl hu rfl hv
      have hkeyed : answered.fault = none := (keyed_fault (tickLines s) _).trans hv
      refine ⟨fun hrd => ⟨sysTick s, rfl, endsTick_tapeRead hf hvdp hv hrd⟩, fun hrd svc hsvc =>
        ⟨_, exec_tpTick hkeyed hsvc byte, fun hw => ?_⟩⟩
      obtain ⟨e, he⟩ := Option.ne_none_iff_exists'.1 hw
      have hcodec := endsTick_codec (l := tickLines s) hf hvdp hv hrd he
      exact ⟨sysTick s, rfl, hcodec⟩

end Sys2Proof.Machine
end

section
/-! PROOFS of the family `70_reset_and_hazards`, the values of reset (70_reset R360, R361, R363 to R365, R367, R368).
A launch has the values of the table of 10_state R53, whatever its configuration and video RAM; a reset is a launch with
the block's own configuration and video RAM, which differs only in fields that the table does not speak of. -/
namespace Sys2Proof.Machine

/-! ### The values of a launch -/

section
variable (config : Config) (vram : Memory)

/-- 70_reset R361, the direct registers. -/
theorem getReg_launch (k : BitVec 3) : getReg (State.launch config vram) k = 0x00 :=
  Vector.getElem_replicate k.isLt

/-- 70_reset R361, the indirect registers. -/
theorem getIReg_launch (k : BitVec 3) : getIReg (State.launch config vram) k = 0x00 :=
  Vector.getElem_replicate k.isLt

/-- 70_reset R364, the row buffer. -/
theorem cellAt_launch {c : Nat} (hc : c < 40) : cellAt (State.launch config vram) c = blankCell := by
  simp [cellAt, State.launch, hc]

/-- 70_reset R364, the quadrant buffer. -/
theorem quadAt_launch {c : Nat} (hc : c < 40) : quadAt (State.launch config vram) c = .none := by
  simp [quadAt, State.launch, hc]

/-- 70_reset R364, the framebuffer: a launch lists no byte of it. -/
theorem fbRead_launch (i : Nat) : fbRead (State.launch config vram) i = 0x00 := Memory.read_nil i

/-- A launch starts from the table of 10_state R53 (70_reset R360). -/
theorem resetValues_launch : ResetValues (State.launch config vram) :=
  { r := getReg_launch config vram
    ir := getIReg_launch config vram
    cfg := rfl
    position := ⟨rfl, rfl⟩
    latches := ⟨rfl, rfl, rfl⟩
    edges := ⟨rfl, rfl, rfl⟩
    rowbuf := fun _ hc => cellAt_launch config vram hc
    rowY := rfl
    quad := fun _ hc => quadAt_launch config vram hc
    fb := fbRead_launch config vram
    sync := ⟨rfl, rfl⟩
    drive := ⟨rfl, rfl⟩
    image := ⟨rfl, rfl, rfl⟩
    codec := ⟨rfl, rfl, rfl, rfl⟩
    measure := ⟨rfl, rfl, rfl, rfl, rfl⟩
    block := ⟨rfl, rfl, rfl, rfl⟩
    cpu := rfl }

end

/-! ### Reset -/

/-- What the table of 10_state R53 says of a launch holds with any script, outside world and host result: the table does
not speak of them (log entry 14). -/
theorem resetValues_resetFrom (s : State) : ResetValues (resetFrom s) :=
  { resetValues_launch s.config s.vram with }

/-- SYS.RESET and HOST.RESET are one reset (45_system_tick R320). -/
theorem exec_reset {i : Instr} (hi : i = .sysReset ∨ i = .hostReset) (s : State) :
    exec i s = .next (resetFrom s) := by
  rcases hi with rfl | rfl <;> rfl

/-- Settles O52: a reset has the values of the launch it is, and so has the state after reset. -/
theorem resetEstablishesEveryValue : Obligations.ResetEstablishesEveryValue :=
  ⟨fun s _ hi => ⟨resetFrom s, exec_reset hi s, resetValues_resetFrom s, rfl, rfl⟩, resetValues_launch configRef []⟩

end Sys2Proof.Machine
end
